-- ==== Sys2Proof/Word.lean ====
section
/-! DEFINITION. The word types of the machine (00_scope.md R11, 10_state.md R20, R21). -/
namespace Sys2Proof

/-- A word: 16 bits (00_scope.md R11). -/
abbrev Word := BitVec 16

/-- A byte: 8 bits (00_scope.md R11). -/
abbrev Byte := BitVec 8

/-- A register number: the 4-bit field of an instruction (10_state.md R21). -/
abbrev Reg := BitVec 4

/-- Register 0, the stack pointer (10_state.md R22). -/
abbrev sp : Reg := 0#4

end Sys2Proof
end

