-- ==== Sys2Proof/Config.lean ====
section
/-! DEFINITION. What the spec leaves to a parameter (00_scope.md R7): the types the parameters range over, the
record `Config` of them, and the free answers of the device ports (00_scope.md R10).
The values are set in Sys2Proof/Machine/Params.lean. -/
namespace Sys2Proof

/-- The 45 mnemonics (30_encoding.md R90), the domain of the parameter OPC. -/
inductive Mnemonic where
  | nop | input | call | ret | load | loadi | mov | movi | push | pop
  | add | sub | mul | div | and | or | xor | shl | shra | shrl | cmp | tst
  | color | pixel | stor | stori | time | timerst | rnd
  | jmp | jmpi | jeq | jne | jg | jge | ja | jae | jl | jle | jb | jbe | jo | jno | js | jns
  deriving DecidableEq, Repr

/-- Every mnemonic, in the order of the opcode table. -/
def Mnemonic.all : List Mnemonic :=
  [.nop, .input, .call, .ret, .load, .loadi, .mov, .movi, .push, .pop,
   .add, .sub, .mul, .div, .and, .or, .xor, .shl, .shra, .shrl, .cmp, .tst,
   .color, .pixel, .stor, .stori, .time, .timerst, .rnd,
   .jmp, .jmpi, .jeq, .jne, .jg, .jge, .ja, .jae, .jl, .jle, .jb, .jbe, .jo, .jno, .js, .jns]

/-- The twelve arithmetic opcodes (00_scope.md R15). -/
inductive AluOp where
  | add | sub | mul | div | and | or | xor | shl | shra | shrl | cmp | tst
  deriving DecidableEq, Repr

/-- The parameter OOB: what a 16-bit data access at 0xFFFF does with its second byte
(20_memory.md R56; the three values are those of 92_eei_decisions.md D6). -/
inductive Oob where
  /-- The second byte is at address 0x0000 (the spec's default). -/
  | wrap
  /-- The second byte is at the highest address again (log 6). -/
  | clamp
  /-- The access stops the machine with a fault of the model's own. -/
  | fault
  deriving DecidableEq, Repr

/-- The parameter SHIFT_COUNT: how a shift reads its count (92_eei_decisions.md D4). -/
inductive ShiftCount where
  | mathematical | mod16 | mod32
  deriving DecidableEq, Repr

/-- The parameter POP_SP_ORDER: what POP leaves in the stack pointer when it is also the destination
(92_eei_decisions.md D10). -/
inductive PopSpOrder where
  /-- The register is written first and then loses 2 (the spec's default). -/
  | loadedMinusTwo
  /-- The stack pointer loses 2 first and is then overwritten. -/
  | loaded
  deriving DecidableEq, Repr

/-- The parameter PIXEL_RANGE: what PIXEL does with coordinates outside the 256 by 192 grid
(92_eei_decisions.md D15). -/
inductive PixelRange where
  /-- The event is emitted unchanged and the display drops it (the spec's default). -/
  | drop
  /-- Each coordinate is masked to 8 bits before the event is emitted. -/
  | maskToByte
  /-- The machine stops with a fault of the model's own. -/
  | fault
  deriving DecidableEq, Repr

/-- The parameters of 00_scope.md R7, one field for each. -/
structure Config where
  /-- OPC: the opcode byte of each mnemonic (30_encoding.md R91, D1). It has to be injective and to give ADD the byte
  0x0A, which `opcodeMapWellFormed` checks. -/
  opc : Mnemonic → Byte
  /-- DIV0_REG: the value DIV stores when `src = 0` (42_alu.md R149, D5). -/
  div0Reg : Word
  /-- OOB (20_memory.md R56, D6). -/
  oob : Oob
  /-- SHIFT_COUNT (42_alu.md R153 to R155, D4). -/
  shiftCount : ShiftCount
  /-- SIGNEDNESS: the operators that read `dest` as signed (42_alu.md R141, D2). -/
  signedDest : List AluOp
  /-- SIGNEDNESS: the operators that read `src` as signed (42_alu.md R141, D2). -/
  signedSrc : List AluOp
  /-- RESET_REGS (70_reset_and_hazards.md R232, D11). -/
  resetRegs : Word
  /-- RESET_MEM_FILL (70_reset_and_hazards.md R231, D11). -/
  resetMemFill : Byte
  /-- RESET_COLOR (70_reset_and_hazards.md R235, D11). -/
  resetColor : Byte
  /-- RESET_PC (70_reset_and_hazards.md R233, D12). -/
  resetPc : Word
  /-- POP_SP_ORDER (41_stack_call.md R132, D10). -/
  popSpOrder : PopSpOrder
  /-- PIXEL_RANGE (43_io_timing_rnd.md R173, D15). -/
  pixelRange : PixelRange

/-- FREE VALUE. The `n`-th port answer, when it is `InputActive(id)` (60_exceptions.md R217, log 18): the
collaborator's table can change between any two instructions, so nothing constrains it. -/
opaque Config.inputAnswer : (n : Nat) → (id : Word) → Bool

/-- FREE VALUE. What the clock shows at the `n`-th port answer, before monotonicity is imposed
(60_exceptions.md R219, log 27). -/
opaque Config.clockAnswer : (n : Nat) → BitVec 64

/-- FREE VALUE. The `n`-th port answer, when it is `RandomDraw16()` (60_exceptions.md R221, log 17). -/
opaque Config.randomAnswer : (n : Nat) → Word

end Sys2Proof
end

