-- ==== Sys2Proof/Machine/Params.lean ====
section
/-! DEFINITION. The configuration of the machine: every parameter of 00_scope.md R7 at the default the spec decides. -/
namespace Sys2Proof.Machine

/-- The default of the parameter OPC: the table of 30_encoding.md R91.
DESIGN CHOICE of the spec (D1, log 1), unsafe: only the number of ADD is a fact of its source. -/
def defaultOpc : Mnemonic → Byte
  | .nop => 0x00#8
  | .input => 0x01#8
  | .call => 0x02#8
  | .ret => 0x03#8
  | .load => 0x04#8
  | .loadi => 0x05#8
  | .mov => 0x06#8
  | .movi => 0x07#8
  | .push => 0x08#8
  | .pop => 0x09#8
  | .add => 0x0A#8
  | .sub => 0x0B#8
  | .mul => 0x0C#8
  | .div => 0x0D#8
  | .and => 0x0E#8
  | .or => 0x0F#8
  | .xor => 0x10#8
  | .shl => 0x11#8
  | .shra => 0x12#8
  | .shrl => 0x13#8
  | .cmp => 0x14#8
  | .tst => 0x15#8
  | .color => 0x16#8
  | .pixel => 0x17#8
  | .stor => 0x18#8
  | .stori => 0x19#8
  | .time => 0x1A#8
  | .timerst => 0x1B#8
  | .rnd => 0x1C#8
  | .jmp => 0x30#8
  | .jmpi => 0x31#8
  | .jeq => 0x32#8
  | .jne => 0x33#8
  | .jg => 0x34#8
  | .jge => 0x35#8
  | .ja => 0x36#8
  | .jae => 0x37#8
  | .jl => 0x38#8
  | .jle => 0x39#8
  | .jb => 0x3A#8
  | .jbe => 0x3B#8
  | .jo => 0x3C#8
  | .jno => 0x3D#8
  | .js => 0x3E#8
  | .jns => 0x3F#8

/-- The defaults of 00_scope.md R7. Each is a choice of the spec, not a fact of its source
(92_eei_decisions.md; log 1, 2, 4, 5, 6, 10, 11, 12, 15), so each is DESIGN CHOICE, unsafe. -/
def params : Config where
  opc := defaultOpc
  div0Reg := 0xFFFF#16
  oob := .wrap
  shiftCount := .mathematical
  signedDest := [.shra]
  signedSrc := []
  resetRegs := 0x0000#16
  resetMemFill := 0x00#8
  resetColor := 0x00#8
  resetPc := 0x0000#16
  popSpOrder := .loadedMinusTwo
  pixelRange := .drop

end Sys2Proof.Machine
end

