-- ==== Sys2Proof/Syntax.lean ====
section
/-! DEFINITION. The instruction set: one constructor per row of spec/opcode_table.json (30_encoding.md R82 to R87, R90). -/
namespace Sys2Proof

/-- An instruction with its decoded operands. The operand widths are those of 30_encoding.md R88:
`reg1` and `reg2` 4 bits, `addr` and `imm16` 16 bits, `imm8` 8 bits. -/
inductive Instr where
  | nop
  | input (reg1 reg2 : Reg)
  | call (addr : Word)
  | ret (imm8 : Byte)
  | load (reg1 reg2 : Reg)
  | loadi (reg1 : Reg) (imm16 : Word)
  | mov (reg1 reg2 : Reg)
  | movi (reg1 : Reg) (imm16 : Word)
  | push (reg1 : Reg)
  | pop (reg1 : Reg)
  | add (reg1 reg2 : Reg)
  | sub (reg1 reg2 : Reg)
  | mul (reg1 reg2 : Reg)
  | div (reg1 reg2 : Reg)
  | and (reg1 reg2 : Reg)
  | or (reg1 reg2 : Reg)
  | xor (reg1 reg2 : Reg)
  | shl (reg1 reg2 : Reg)
  | shra (reg1 reg2 : Reg)
  | shrl (reg1 reg2 : Reg)
  | cmp (reg1 reg2 : Reg)
  | tst (reg1 reg2 : Reg)
  | color (reg1 : Reg)
  | pixel (reg1 reg2 : Reg)
  | stor (reg1 reg2 : Reg)
  | stori (reg1 : Reg) (imm16 : Word)
  | time (reg1 : Reg)
  | timerst
  | rnd (reg1 : Reg)
  | jmp (reg1 : Reg)
  | jmpi (addr : Word)
  | jeq (addr : Word)
  | jne (addr : Word)
  | jg (addr : Word)
  | jge (addr : Word)
  | ja (addr : Word)
  | jae (addr : Word)
  | jl (addr : Word)
  | jle (addr : Word)
  | jb (addr : Word)
  | jbe (addr : Word)
  | jo (addr : Word)
  | jno (addr : Word)
  | js (addr : Word)
  | jns (addr : Word)
  deriving DecidableEq, Repr

/-- The mnemonic of an instruction, which keys the parameter OPC. -/
def Instr.mnemonic : Instr → Mnemonic
  | .nop => .nop
  | .input _ _ => .input
  | .call _ => .call
  | .ret _ => .ret
  | .load _ _ => .load
  | .loadi _ _ => .loadi
  | .mov _ _ => .mov
  | .movi _ _ => .movi
  | .push _ => .push
  | .pop _ => .pop
  | .add _ _ => .add
  | .sub _ _ => .sub
  | .mul _ _ => .mul
  | .div _ _ => .div
  | .and _ _ => .and
  | .or _ _ => .or
  | .xor _ _ => .xor
  | .shl _ _ => .shl
  | .shra _ _ => .shra
  | .shrl _ _ => .shrl
  | .cmp _ _ => .cmp
  | .tst _ _ => .tst
  | .color _ => .color
  | .pixel _ _ => .pixel
  | .stor _ _ => .stor
  | .stori _ _ => .stori
  | .time _ => .time
  | .timerst => .timerst
  | .rnd _ => .rnd
  | .jmp _ => .jmp
  | .jmpi _ => .jmpi
  | .jeq _ => .jeq
  | .jne _ => .jne
  | .jg _ => .jg
  | .jge _ => .jge
  | .ja _ => .ja
  | .jae _ => .jae
  | .jl _ => .jl
  | .jle _ => .jle
  | .jb _ => .jb
  | .jbe _ => .jbe
  | .jo _ => .jo
  | .jno _ => .jno
  | .js _ => .js
  | .jns _ => .jns

end Sys2Proof
end

