-- ==== Sys2Proof/Decode.lean ====
section
/-! DEFINITION. The six formats, the opcode bytes, the decoder (total on all 2^32 words) and the encoder
(30_encoding.md R80 to R95). -/
namespace Sys2Proof

/-! ### Formats and opcode numbers -/

/-- The six formats of 30_encoding.md R82 to R87. -/
inductive Format where
  | z | rr | r | ri | a | i8
  deriving DecidableEq, Repr

/-- The format of each mnemonic (30_encoding.md R90). -/
def formatOf : Mnemonic → Format
  | .nop | .timerst => .z
  | .input | .load | .mov | .add | .sub | .mul | .div | .and | .or | .xor => .rr
  | .shl | .shra | .shrl | .cmp | .tst | .pixel | .stor => .rr
  | .push | .pop | .color | .jmp | .time | .rnd => .r
  | .loadi | .stori | .movi => .ri
  | .call | .jmpi | .jeq | .jne | .jg | .jge | .ja | .jae => .a
  | .jl | .jle | .jb | .jbe | .jo | .jno | .js | .jns => .a
  | .ret => .i8

/-- The parameter OPC (00_scope.md R7), which the decoder, the encoder and the assembler all read here. -/
def opcodeOf (m : Mnemonic) : Byte := Machine.params.opc m

/-- OPC read backwards: the mnemonic an opcode byte stands for, or none for an unknown opcode
(30_encoding.md R92). -/
def mnemonicOf (opcode : Byte) : Option Mnemonic :=
  Mnemonic.all.find? fun m => opcodeOf m == opcode

/-! ### Decode -/

/-- What the decode step computes for every word, whatever its format (30_encoding.md R88). -/
structure Fields where
  opcode : Byte := 0
  reg1 : Reg := 0
  reg2 : Reg := 0
  addr : Word := 0
  imm16 : Word := 0
  imm8 : Byte := 0
  deriving DecidableEq, Repr

/-- The fields of the big-endian word `W` (30_encoding.md R81, R88): byte 0 is `W[31:24]`. -/
def fieldsOf (w : BitVec 32) : Fields where
  opcode := w.extractLsb' 24 8
  reg1 := w.extractLsb' 16 4
  reg2 := w.extractLsb' 8 4
  addr := w.extractLsb' 8 16
  imm16 := w.extractLsb' 0 16
  imm8 := w.extractLsb' 16 8

/-- The instruction of a mnemonic with the fields its format names (30_encoding.md R82 to R87); the other
fields are ignored (R89). -/
def instrOf (m : Mnemonic) (f : Fields) : Instr :=
  match m with
  | .nop => .nop
  | .input => .input f.reg1 f.reg2
  | .call => .call f.addr
  | .ret => .ret f.imm8
  | .load => .load f.reg1 f.reg2
  | .loadi => .loadi f.reg1 f.imm16
  | .mov => .mov f.reg1 f.reg2
  | .movi => .movi f.reg1 f.imm16
  | .push => .push f.reg1
  | .pop => .pop f.reg1
  | .add => .add f.reg1 f.reg2
  | .sub => .sub f.reg1 f.reg2
  | .mul => .mul f.reg1 f.reg2
  | .div => .div f.reg1 f.reg2
  | .and => .and f.reg1 f.reg2
  | .or => .or f.reg1 f.reg2
  | .xor => .xor f.reg1 f.reg2
  | .shl => .shl f.reg1 f.reg2
  | .shra => .shra f.reg1 f.reg2
  | .shrl => .shrl f.reg1 f.reg2
  | .cmp => .cmp f.reg1 f.reg2
  | .tst => .tst f.reg1 f.reg2
  | .color => .color f.reg1
  | .pixel => .pixel f.reg1 f.reg2
  | .stor => .stor f.reg1 f.reg2
  | .stori => .stori f.reg1 f.imm16
  | .time => .time f.reg1
  | .timerst => .timerst
  | .rnd => .rnd f.reg1
  | .jmp => .jmp f.reg1
  | .jmpi => .jmpi f.addr
  | .jeq => .jeq f.addr
  | .jne => .jne f.addr
  | .jg => .jg f.addr
  | .jge => .jge f.addr
  | .ja => .ja f.addr
  | .jae => .jae f.addr
  | .jl => .jl f.addr
  | .jle => .jle f.addr
  | .jb => .jb f.addr
  | .jbe => .jbe f.addr
  | .jo => .jo f.addr
  | .jno => .jno f.addr
  | .js => .js f.addr
  | .jns => .jns f.addr

/-- What a word decodes to. No word is illegal (30_encoding.md R93): an opcode byte that OPC gives to no
mnemonic is named as unknown, and the step runs it as a no-op (45_nop_unknown.md R201). -/
inductive Decoded where
  | instr (i : Instr)
  | unknown (opcode : Byte)
  deriving DecidableEq, Repr

/-- The decoder, total on all 2^32 words (30_encoding.md R93). -/
def decode (w : BitVec 32) : Decoded :=
  match mnemonicOf (fieldsOf w).opcode with
  | some m => .instr (instrOf m (fieldsOf w))
  | none => .unknown (fieldsOf w).opcode

/-- Four bytes in address order as the big-endian word `W` (30_encoding.md R81). -/
def wordOfBytes (b0 b1 b2 b3 : Byte) : BitVec 32 := b0 ++ b1 ++ b2 ++ b3

/-- The four bytes of `W` in address order (30_encoding.md R81). -/
def bytesOfWord (w : BitVec 32) : List Byte :=
  [w.extractLsb' 24 8, w.extractLsb' 16 8, w.extractLsb' 8 8, w.extractLsb' 0 8]

/-! ### Encode -/

/-- Format Z (30_encoding.md R82). -/
def wordZ (op : Byte) : BitVec 32 := op ++ 0#24

/-- Format RR (30_encoding.md R83). -/
def wordRR (op : Byte) (reg1 reg2 : Reg) : BitVec 32 := op ++ 0#4 ++ reg1 ++ 0#4 ++ reg2 ++ 0#8

/-- Format R (30_encoding.md R84). -/
def wordR (op : Byte) (reg1 : Reg) : BitVec 32 := op ++ 0#4 ++ reg1 ++ 0#16

/-- Format RI (30_encoding.md R85). -/
def wordRI (op : Byte) (reg1 : Reg) (imm16 : Word) : BitVec 32 := op ++ 0#4 ++ reg1 ++ imm16

/-- Format A (30_encoding.md R86). -/
def wordA (op : Byte) (addr : Word) : BitVec 32 := op ++ addr ++ 0#8

/-- Format I8 (30_encoding.md R87). -/
def wordI8 (op : Byte) (imm8 : Byte) : BitVec 32 := op ++ imm8 ++ 0#16

/-- The word the assembler emits for an instruction, with zeros in the ignored bits (30_encoding.md R82 to
R87, R89). -/
def encode : Instr → BitVec 32
  | .nop => wordZ (opcodeOf .nop)
  | .input reg1 reg2 => wordRR (opcodeOf .input) reg1 reg2
  | .call addr => wordA (opcodeOf .call) addr
  | .ret imm8 => wordI8 (opcodeOf .ret) imm8
  | .load reg1 reg2 => wordRR (opcodeOf .load) reg1 reg2
  | .loadi reg1 imm16 => wordRI (opcodeOf .loadi) reg1 imm16
  | .mov reg1 reg2 => wordRR (opcodeOf .mov) reg1 reg2
  | .movi reg1 imm16 => wordRI (opcodeOf .movi) reg1 imm16
  | .push reg1 => wordR (opcodeOf .push) reg1
  | .pop reg1 => wordR (opcodeOf .pop) reg1
  | .add reg1 reg2 => wordRR (opcodeOf .add) reg1 reg2
  | .sub reg1 reg2 => wordRR (opcodeOf .sub) reg1 reg2
  | .mul reg1 reg2 => wordRR (opcodeOf .mul) reg1 reg2
  | .div reg1 reg2 => wordRR (opcodeOf .div) reg1 reg2
  | .and reg1 reg2 => wordRR (opcodeOf .and) reg1 reg2
  | .or reg1 reg2 => wordRR (opcodeOf .or) reg1 reg2
  | .xor reg1 reg2 => wordRR (opcodeOf .xor) reg1 reg2
  | .shl reg1 reg2 => wordRR (opcodeOf .shl) reg1 reg2
  | .shra reg1 reg2 => wordRR (opcodeOf .shra) reg1 reg2
  | .shrl reg1 reg2 => wordRR (opcodeOf .shrl) reg1 reg2
  | .cmp reg1 reg2 => wordRR (opcodeOf .cmp) reg1 reg2
  | .tst reg1 reg2 => wordRR (opcodeOf .tst) reg1 reg2
  | .color reg1 => wordR (opcodeOf .color) reg1
  | .pixel reg1 reg2 => wordRR (opcodeOf .pixel) reg1 reg2
  | .stor reg1 reg2 => wordRR (opcodeOf .stor) reg1 reg2
  | .stori reg1 imm16 => wordRI (opcodeOf .stori) reg1 imm16
  | .time reg1 => wordR (opcodeOf .time) reg1
  | .timerst => wordZ (opcodeOf .timerst)
  | .rnd reg1 => wordR (opcodeOf .rnd) reg1
  | .jmp reg1 => wordR (opcodeOf .jmp) reg1
  | .jmpi addr => wordA (opcodeOf .jmpi) addr
  | .jeq addr => wordA (opcodeOf .jeq) addr
  | .jne addr => wordA (opcodeOf .jne) addr
  | .jg addr => wordA (opcodeOf .jg) addr
  | .jge addr => wordA (opcodeOf .jge) addr
  | .ja addr => wordA (opcodeOf .ja) addr
  | .jae addr => wordA (opcodeOf .jae) addr
  | .jl addr => wordA (opcodeOf .jl) addr
  | .jle addr => wordA (opcodeOf .jle) addr
  | .jb addr => wordA (opcodeOf .jb) addr
  | .jbe addr => wordA (opcodeOf .jbe) addr
  | .jo addr => wordA (opcodeOf .jo) addr
  | .jno addr => wordA (opcodeOf .jno) addr
  | .js addr => wordA (opcodeOf .js) addr
  | .jns addr => wordA (opcodeOf .jns) addr

/-- The bits a format ignores (30_encoding.md R89; "ignored_bits" of spec/opcode_table.json). -/
def ignoredBits : Format → BitVec 32
  | .z => 0x00FFFFFF#32
  | .rr => 0x00F0F0FF#32
  | .r => 0x00F0FFFF#32
  | .ri => 0x00F00000#32
  | .a => 0x000000FF#32
  | .i8 => 0x0000FFFF#32

/-! ### The host's view -/

/-- The instruction the decoder reads from a row's word as spec/opcode_table.json numbers its bits: the table's
`W` is the big-endian word of 30_encoding.md R81, bit 0 the lowest bit of byte 3; bits from `nbits` up are 0. -/
def decodeTableWord (nbits w : Nat) : Option Instr :=
  match decode (BitVec.ofNat 32 (w % 2 ^ nbits)) with
  | .instr i => some i
  | .unknown _ => none

end Sys2Proof
end

