-- ==== Sys2Proof/Machine/State.lean ====
section
/-! DEFINITION. The state of the core (10_state.md), its reasons to stop, and the state after reset
(70_reset_and_hazards.md R230 to R237). -/
namespace Sys2Proof.Machine

/-- The four flags (10_state.md R29). -/
structure Flags where
  /-- `F.V` -/
  overflow : Bool
  /-- `F.C` -/
  carry : Bool
  /-- `F.Z` -/
  zero : Bool
  /-- `F.S` -/
  sign : Bool
  deriving DecidableEq, Repr

/-- All four flags false: what a non-arithmetic opcode leaves (10_state.md R30) and what load leaves
(70_reset_and_hazards.md R234). -/
def Flags.clear : Flags := ⟨false, false, false, false⟩

/-- One pixel event `(px, py, c)` (60_exceptions.md R218). -/
structure PixelEvent where
  px : Word
  py : Word
  c : Byte
  deriving DecidableEq, Repr

/-- The memory: (address, byte) pairs, in the canonical form of `Memory.wf` (Sys2Proof/Machine/Ops.lean). -/
abbrev Memory := List Host.Cell

/-- The state of the core ("registers, memory, flags, pointer, color register, timer reference", 10_state.md),
the halt request the core samples (60_exceptions.md R222), the pixel events it has emitted (10_state.md R37), and
the model's own bookkeeping of port answers (log 23). -/
structure State where
  /-- `x[0]` to `x[15]` (10_state.md R20). -/
  regs : Vector Word 16
  /-- The instruction pointer (10_state.md R25). -/
  pc : Word
  /-- The flags left by the instruction before (10_state.md R29, R30). -/
  flags : Flags
  /-- The colour register (10_state.md R32). -/
  color : Byte
  /-- The timer reference, in milliseconds (10_state.md R33). -/
  tref : BitVec 64
  /-- The 65536 bytes of memory (10_state.md R35). -/
  mem : Memory
  /-- The halt request as the core sees it (60_exceptions.md R222). -/
  haltRequest : Bool
  /-- Output: the pixel events emitted so far, oldest first (10_state.md R37, log 24). -/
  pixels : List PixelEvent
  /-- The model's own: the last answer of the clock port (60_exceptions.md R219, log 23). -/
  clock : BitVec 64
  /-- The model's own: how many port answers have been used (log 23). -/
  draws : Nat
  deriving DecidableEq, Repr

/-- Why a step can stop with a fault. The core has no fault (60_exceptions.md R210): both reasons belong to
parameter values the spec lists beside its defaults, and no step reaches them at the defaults (log 26). -/
inductive Fault where
  /-- Raised by a 16-bit data access at 0xFFFF when OOB = fault (92_eei_decisions.md D6). Safe. -/
  | outOfRangeAccess
  /-- Raised by PIXEL outside the 256 by 192 grid when PIXEL_RANGE = fault (92_eei_decisions.md D15). Safe. -/
  | pixelOutOfGrid
  deriving DecidableEq, Repr

/-- Why a step can be refused. -/
inductive Refusal where
  /-- Raised by `exec` for an instruction that has no meaning yet. Safe. No arm of `exec` answers with it. -/
  | notModelled (mnemonic : String)
  deriving DecidableEq, Repr

/-- The answer of a meaning. -/
abbrev Answer := Host.Outcome State Fault Refusal

/-- The state after reset: the load of the empty image (70_reset_and_hazards.md R230 to R237, log 25).
Register, memory, colour and pointer values are the parameters of D11 and D12 (log 11, 12); the pointer is aligned
as every value of it is (10_state.md R27). The timer reference is the clock port's first answer, a free value
(R236, log 16), and so is the model's own `clock` (log 23). -/
def State.reset : State where
  regs := Vector.replicate 16 params.resetRegs
  pc := params.resetPc &&& 0xFFFC#16
  flags := Flags.clear
  color := params.resetColor
  tref := Config.clockAnswer 0
  mem := []
  haltRequest := false
  pixels := []
  clock := Config.clockAnswer 0
  draws := 1

end Sys2Proof.Machine
end

