-- ==== Sys2Proof/Machine/Ops.lean ====
section
/-! DEFINITION. The named operations over registers, memory, the stack and the instruction pointer. The core takes
no exception and returns from none (60_exceptions.md R210, R212), so there is no such operation here. -/
namespace Sys2Proof.Machine

/-! ### Registers (10_state.md R20 to R24) -/

/-- `x[r]`: no register is hardwired (10_state.md R22). -/
def State.reg (s : State) (r : Reg) : Word := s.regs[r.toNat]

/-- `x[r] <- v`: a word is already reduced modulo 65536 (10_state.md R23). -/
def State.setReg (s : State) (r : Reg) (v : Word) : State := { s with regs := s.regs.set r.toNat v }

/-! ### Memory (20_memory.md R50 to R59) -/

/-- What an unlisted address reads as: the fill after load (70_reset_and_hazards.md R231, log 11). -/
def memoryFill : Byte := params.resetMemFill

/-- `Mem[a]` (20_memory.md R50). -/
def Memory.read : Memory → Nat → Byte
  | [], _ => memoryFill
  | (k, b) :: m, a => if k = a then b else Memory.read m a

/-- The memory without the entries of one address. -/
def Memory.erase (m : Memory) (a : Nat) : Memory := m.filter fun c => c.1 != a

/-- The memory with an entry put before the first higher address. -/
def Memory.insert : Memory → Nat → Byte → Memory
  | [], a, v => [(a, v)]
  | (k, b) :: m, a, v => if a < k then (a, v) :: (k, b) :: m else (k, b) :: Memory.insert m a v

/-- `Mem[a] := v` (20_memory.md R52). Writing the fill byte removes the entry. -/
def Memory.write (m : Memory) (a : Nat) (v : Byte) : Memory :=
  if v = memoryFill then m.erase a else (m.erase a).insert a v

/-- The canonical form: addresses strictly rising and below 65536, no entry equal to the fill byte. -/
def Memory.wf (m : Memory) : Bool :=
  m.Pairwise (fun c d => c.1 < d.1) && m.all fun c => c.1 < 65536 && c.2 != memoryFill

/-- The byte at a 16-bit address. -/
def State.byteAt (s : State) (a : Word) : Byte := s.mem.read a.toNat

/-- The state with one byte of memory written. -/
def State.setByte (s : State) (a : Word) (v : Byte) : State := { s with mem := s.mem.write a.toNat v }

/-- Where the second byte of a 16-bit data access lies: the next address, and at 0xFFFF what the parameter OOB
says, none being a fault (20_memory.md R56, D6, log 6). -/
def secondByteAddr (a : Word) : Option Word :=
  if a = 0xFFFF#16 then
    match params.oob with
    | .wrap => some 0x0000#16
    | .clamp => some 0xFFFF#16
    | .fault => none
  else some (a + 1)

/-- `MemRead(a, 2)`: big-endian, at any address (20_memory.md R51, R52, R54). -/
def State.loadWord (s : State) (a : Word) : Option Word :=
  (secondByteAddr a).map fun b => s.byteAt a ++ s.byteAt b

/-- `MemWrite(a, 2, v)`: the high byte at `a` first, then the low byte (20_memory.md R51, R52, R59). -/
def State.storeWord (s : State) (a : Word) (v : Word) : Option State :=
  (secondByteAddr a).map fun b => (s.setByte a (v.extractLsb' 8 8)).setByte b (v.extractLsb' 0 8)

/-- Goes on with the result of a data access, or stops where it has none (OOB = fault only, log 6). -/
def orFault {α : Type} (o : Option α) (k : α → Answer) : Answer :=
  match o with
  | some v => k v
  | none => .fault .outOfRangeAccess

/-- `MemRead(pc, 4)`: the fetched word (20_memory.md R53). `pc` is a multiple of 4, so the addresses never wrap;
where it is not (no run reaches such a state) they are reduced modulo 65536 (log 7). -/
def State.fetchWord (s : State) : BitVec 32 :=
  wordOfBytes (s.byteAt s.pc) (s.byteAt (s.pc + 1)) (s.byteAt (s.pc + 2)) (s.byteAt (s.pc + 3))

/-- The state with the four bytes of a word stored from address `a` up, byte 0 at `a`. -/
def State.placeWord (s : State) (a : Word) (w : BitVec 32) : State :=
  (((s.setByte a (w.extractLsb' 24 8)).setByte (a + 1) (w.extractLsb' 16 8)).setByte (a + 2)
    (w.extractLsb' 8 8)).setByte (a + 3) (w.extractLsb' 0 8)

/-! ### Stack primitives (41_stack_call.md R130) -/

/-- A push: `x[0] <- x[0] + 2`, then the word at the new `x[0]`. -/
def State.pushWord (s : State) (v : Word) : Option State :=
  (s.setReg sp (s.reg sp + 2)).storeWord (s.reg sp + 2) v

/-! ### The end of an instruction (10_state.md R26, R27, R30) -/

/-- The low two bits of every value of the pointer are cleared (10_state.md R27). -/
def alignPc (t : Word) : Word := t &&& 0xFFFC#16

/-- Retarget the pointer, then update the flags (45_nop_unknown.md R203, parts 4 and 5). -/
def State.retire (s : State) (next : Word) (f : Flags) : Answer :=
  .next { s with pc := alignPc next, flags := f }

/-- The end of a non-arithmetic instruction that does not redirect: `pc + 4` and cleared flags (10_state.md R26,
R28, R30). -/
def State.advance (s : State) : Answer := s.retire (s.pc + 4) Flags.clear

/-- The end of a non-arithmetic instruction that redirects (44_control_flow.md R180, R181). -/
def State.redirect (s : State) (target : Word) : Answer := s.retire target Flags.clear

end Sys2Proof.Machine
end

