-- ==== Sys2Proof/Machine/Operands.lean ====
section
/-! DEFINITION. How the arithmetic opcodes read their operands (42_alu.md R140, R141) and their shift counts
(R153 to R155). The other operand forms need no reading: registers are `State.reg`, immediates are used as they are
(30_encoding.md R95), and addresses go to `State.loadWord` and `State.storeWord` (40_data_move.md R127). -/
namespace Sys2Proof.Machine

/-- A word as the integer an operator reads: `sext_16` or `zext_16` (00_scope.md R12). -/
def readSigned (signed : Bool) (v : Word) : Int := if signed then v.toInt else v.toNat

/-- `dest` as an operator reads it: by the parameter SIGNEDNESS, signed for SHRA only (42_alu.md R141, D2,
log 2). -/
def destValue (op : AluOp) (v : Word) : Int := readSigned (params.signedDest.contains op) v

/-- `src` as an operator reads it: unsigned for every operator (42_alu.md R141, D2, log 2). -/
def srcValue (op : AluOp) (v : Word) : Int := readSigned (params.signedSrc.contains op) v

/-- The shift count a `src` stands for, by the parameter SHIFT_COUNT: all 16 bits (42_alu.md R153, D4, log 4). -/
def shiftCount (src : Word) : Nat :=
  match params.shiftCount with
  | .mathematical => src.toNat
  | .mod16 => src.toNat % 16
  | .mod32 => src.toNat % 32

/-- The power of two a shift multiplies or divides by. A count above 16 leaves the same stored word and the same
flags as 16 does, so the exponent stops there and no huge power is formed (42_alu.md R153, log 4). The statements
`ShlStoresTheMathematicalShift`, `ShraStoresTheFlooredQuotient` and `ShrlStoresTheUnsignedQuotient` say it of the
uncapped power. -/
def shiftFactor (src : Word) : Int := 2 ^ min (shiftCount src) 16

end Sys2Proof.Machine
end

