-- ==== Sys2Proof/Machine/Flags.lean ====
section
/-! DEFINITION. The results of the twelve arithmetic opcodes (42_alu.md R146 to R157), their flag formulas
(R142 to R145), and the conditions of the fourteen conditional jumps (44_control_flow.md R185 to R198). -/
namespace Sys2Proof.Machine

/-! ### Results -/

/-- The untruncated `result` (42_alu.md R140, R146 to R157). DIV divides toward zero and takes 0xFFFF where `src`
is 0 (R149; 90_conflicts.md C7). The bitwise operators work on the bits, which no reading as signed changes. -/
def aluResult (op : AluOp) (dest src : Word) : Int :=
  match op with
  | .add => destValue .add dest + srcValue .add src
  | .sub => destValue .sub dest - srcValue .sub src
  | .mul => destValue .mul dest * srcValue .mul src
  | .div => if src = 0 then 0xFFFF else (destValue .div dest).tdiv (srcValue .div src)
  | .and => (dest &&& src).toNat
  | .or => (dest ||| src).toNat
  | .xor => (dest ^^^ src).toNat
  | .shl => destValue .shl dest * shiftFactor src
  | .shra => (destValue .shra dest).fdiv (shiftFactor src)
  | .shrl => (destValue .shrl dest).fdiv (shiftFactor src)
  | .cmp => destValue .cmp dest - srcValue .cmp src
  | .tst => (dest &&& src).toNat

/-- `r16 = result mod 65536`, in two's complement (42_alu.md section 2, D14, log 14). -/
def low16 (result : Int) : Word := BitVec.ofInt 16 result

/-- What the ten storing opcodes store: `result mod 65536` (42_alu.md R140), but DIV0_REG for DIV by zero (R149,
D5, log 5). -/
def aluStored (op : AluOp) (dest src : Word) : Word :=
  if op = .div ∧ src = 0 then params.div0Reg else low16 (aluResult op dest src)

/-! ### Flags -/

/-- `F.V` (42_alu.md R142). -/
def overflowFlag (op : AluOp) (dest src r16 : Word) : Bool :=
  match op with
  | .add => dest.msb == src.msb && r16.msb != dest.msb
  | .sub | .cmp => (!dest.msb && src.msb && r16.msb) || (dest.msb && !src.msb && !r16.msb)
  | .mul | .div | .and | .or | .xor | .shl | .shra | .shrl | .tst => false

/-- `F.C`: the result lies outside 0 to 0xFFFF (42_alu.md R143). -/
def carryFlag (result : Int) : Bool := result < 0 || result > 0xFFFF

/-- `F.Z`: the low 16 bits are all zero (42_alu.md R144). -/
def zeroFlag (r16 : Word) : Bool := r16 == 0

/-- `F.S`: bit 15 is set (42_alu.md R145). -/
def signFlag (r16 : Word) : Bool := r16.msb

/-- The four flags from `(dest, src, result, opcode)` (42_alu.md R142 to R145). -/
def flagsOf (op : AluOp) (dest src : Word) (result : Int) : Flags where
  overflow := overflowFlag op dest src (low16 result)
  carry := carryFlag result
  zero := zeroFlag (low16 result)
  sign := signFlag (low16 result)

/-- The flags an arithmetic opcode leaves; for DIV by zero those of 0xFFFF (42_alu.md R149). -/
def aluFlags (op : AluOp) (dest src : Word) : Flags := flagsOf op dest src (aluResult op dest src)

/-! ### Jump conditions -/

/-- JEQ = zero (44_control_flow.md R185). -/
def condJeq (f : Flags) : Bool := f.zero

/-- JNE = not zero (44_control_flow.md R186). -/
def condJne (f : Flags) : Bool := !f.zero

/-- JG = not zero and sign = overflow (44_control_flow.md R187). -/
def condJg (f : Flags) : Bool := !f.zero && f.sign == f.overflow

/-- JGE = (sign = overflow) (44_control_flow.md R188). -/
def condJge (f : Flags) : Bool := f.sign == f.overflow

/-- JA = not carry and not zero (44_control_flow.md R189). -/
def condJa (f : Flags) : Bool := !f.carry && !f.zero

/-- JAE = not carry (44_control_flow.md R190). -/
def condJae (f : Flags) : Bool := !f.carry

/-- JL = (sign differs from overflow) (44_control_flow.md R191). -/
def condJl (f : Flags) : Bool := f.sign != f.overflow

/-- JLE = (sign differs from overflow) or zero (44_control_flow.md R192). -/
def condJle (f : Flags) : Bool := f.sign != f.overflow || f.zero

/-- JB = carry (44_control_flow.md R193). -/
def condJb (f : Flags) : Bool := f.carry

/-- JBE = carry or zero (44_control_flow.md R194). -/
def condJbe (f : Flags) : Bool := f.carry || f.zero

/-- JO = overflow (44_control_flow.md R195). -/
def condJo (f : Flags) : Bool := f.overflow

/-- JNO = not overflow (44_control_flow.md R196). -/
def condJno (f : Flags) : Bool := !f.overflow

/-- JS = sign (44_control_flow.md R197). -/
def condJs (f : Flags) : Bool := f.sign

/-- JNS = not sign (44_control_flow.md R198). -/
def condJns (f : Flags) : Bool := !f.sign

end Sys2Proof.Machine
end

