-- ==== Sys2Proof/Machine/Alu.lean ====
section
/-! DEFINITION. The arithmetic, logic, shift and compare instructions (42_alu.md): one shape for the ten that store
and one for CMP and TST (R140). -/
namespace Sys2Proof.Machine

/-- An arithmetic opcode that stores (42_alu.md R140): `dest` and `src` are the decode-time values. -/
def State.aluStore (s : State) (op : AluOp) (reg1 reg2 : Reg) : Answer :=
  (s.setReg reg1 (aluStored op (s.reg reg1) (s.reg reg2))).retire (s.pc + 4)
    (aluFlags op (s.reg reg1) (s.reg reg2))

/-- An arithmetic opcode that stores nothing (42_alu.md R140). -/
def State.aluTest (s : State) (op : AluOp) (reg1 reg2 : Reg) : Answer :=
  s.retire (s.pc + 4) (aluFlags op (s.reg reg1) (s.reg reg2))

/-- ADD (42_alu.md R146). -/
def execAdd (reg1 reg2 : Reg) (s : State) : Answer := s.aluStore .add reg1 reg2

/-- SUB (42_alu.md R147). -/
def execSub (reg1 reg2 : Reg) (s : State) : Answer := s.aluStore .sub reg1 reg2

/-- MUL (42_alu.md R148). -/
def execMul (reg1 reg2 : Reg) (s : State) : Answer := s.aluStore .mul reg1 reg2

/-- DIV (42_alu.md R149). -/
def execDiv (reg1 reg2 : Reg) (s : State) : Answer := s.aluStore .div reg1 reg2

/-- AND (42_alu.md R150). -/
def execAnd (reg1 reg2 : Reg) (s : State) : Answer := s.aluStore .and reg1 reg2

/-- OR (42_alu.md R151). -/
def execOr (reg1 reg2 : Reg) (s : State) : Answer := s.aluStore .or reg1 reg2

/-- XOR (42_alu.md R152). -/
def execXor (reg1 reg2 : Reg) (s : State) : Answer := s.aluStore .xor reg1 reg2

/-- SHL (42_alu.md R153). -/
def execShl (reg1 reg2 : Reg) (s : State) : Answer := s.aluStore .shl reg1 reg2

/-- SHRA (42_alu.md R154). -/
def execShra (reg1 reg2 : Reg) (s : State) : Answer := s.aluStore .shra reg1 reg2

/-- SHRL (42_alu.md R155). -/
def execShrl (reg1 reg2 : Reg) (s : State) : Answer := s.aluStore .shrl reg1 reg2

/-- CMP (42_alu.md R156). -/
def execCmp (reg1 reg2 : Reg) (s : State) : Answer := s.aluTest .cmp reg1 reg2

/-- TST (42_alu.md R157). -/
def execTst (reg1 reg2 : Reg) (s : State) : Answer := s.aluTest .tst reg1 reg2

end Sys2Proof.Machine
end

