-- ==== Sys2Proof/Machine/DataMove.lean ====
section
/-! DEFINITION. The data move instructions (40_data_move.md). -/
namespace Sys2Proof.Machine

/-- MOV (40_data_move.md R121). -/
def execMov (reg1 reg2 : Reg) (s : State) : Answer := (s.setReg reg1 (s.reg reg2)).advance

/-- MOVI (40_data_move.md R122). -/
def execMovi (reg1 : Reg) (imm16 : Word) (s : State) : Answer := (s.setReg reg1 imm16).advance

/-- `x[reg1] <- MemRead(a, 2)` and on to the next instruction. -/
def State.loadInto (s : State) (reg1 : Reg) (a : Word) : Answer :=
  orFault (s.loadWord a) fun v => (s.setReg reg1 v).advance

/-- LOAD: the address is `src` (40_data_move.md R123). -/
def execLoad (reg1 reg2 : Reg) (s : State) : Answer := s.loadInto reg1 (s.reg reg2)

/-- LOADI: the address is `imm16` (40_data_move.md R124). -/
def execLoadi (reg1 : Reg) (imm16 : Word) (s : State) : Answer := s.loadInto reg1 imm16

/-- `MemWrite(a, 2, dest)` and on to the next instruction. -/
def State.storeFrom (s : State) (reg1 : Reg) (a : Word) : Answer :=
  orFault (s.storeWord a (s.reg reg1)) State.advance

/-- STOR: `reg1` is the datum, `src` the address (40_data_move.md R125). -/
def execStor (reg1 reg2 : Reg) (s : State) : Answer := s.storeFrom reg1 (s.reg reg2)

/-- STORI: `reg1` is the datum, `imm16` the address (40_data_move.md R126). -/
def execStori (reg1 : Reg) (imm16 : Word) (s : State) : Answer := s.storeFrom reg1 imm16

end Sys2Proof.Machine
end

