-- ==== Sys2Proof/Machine/Ports.lean ====
section
/-! DEFINITION. The four device ports (60_exceptions.md R216 to R221). Each answer of an asking port is a free
value indexed by how many answers have been used, so that nothing is known of it but what those rules say. -/
namespace Sys2Proof.Machine

/-- The state once a port answer has been used, so that the next one is another free value (log 23). -/
def State.answered (s : State) : State := { s with draws := s.draws + 1 }

/-- `InputActive(id)` (60_exceptions.md R217, log 18). -/
def State.inputActive (s : State) (id : Word) : Bool := Config.inputAnswer s.draws id

/-- `RandomDraw16()` (60_exceptions.md R221, log 17). -/
def State.randomDraw (s : State) : Word := Config.randomAnswer s.draws

/-- `NowMillis()`: any value that is not below an earlier answer (60_exceptions.md R219, log 27). -/
def State.nowMillis (s : State) : BitVec 64 :=
  if s.clock ≤ Config.clockAnswer s.draws then Config.clockAnswer s.draws else s.clock

/-- The state once the clock port has answered: later answers are not below this one (60_exceptions.md R219). -/
def State.clockRead (s : State) : State := { s with clock := s.nowMillis, draws := s.draws + 1 }

/-- Whether a coordinate pair lies on the 256 by 192 grid (60_exceptions.md R218). -/
def onGrid (px py : Word) : Bool := px ≤ 255#16 && py ≤ 191#16

/-- The event PIXEL emits, by the parameter PIXEL_RANGE: the coordinates unchanged at the default
(43_io_timing_rnd.md R173, D15, log 15). None is a fault. -/
def pixelEvent (px py : Word) (c : Byte) : Option PixelEvent :=
  match params.pixelRange with
  | .drop => some ⟨px, py, c⟩
  | .maskToByte => some ⟨px &&& 0x00FF#16, py &&& 0x00FF#16, c⟩
  | .fault => if onGrid px py then some ⟨px, py, c⟩ else none

/-- `EmitPixel`: the event joins the output stream in program order (60_exceptions.md R218, log 24). -/
def State.emit (s : State) (e : PixelEvent) : State := { s with pixels := s.pixels ++ [e] }

end Sys2Proof.Machine
end

