-- ==== Sys2Proof/Machine/Devices.lean ====
section
/-! DEFINITION. The device, timer and random instructions (43_io_timing_rnd.md). -/
namespace Sys2Proof.Machine

/-- INPUT: the id is the whole `src` (43_io_timing_rnd.md R171). -/
def execInput (reg1 reg2 : Reg) (s : State) : Answer :=
  (s.answered.setReg reg1 (if s.inputActive (s.reg reg2) then 1 else 0)).advance

/-- COLOR (43_io_timing_rnd.md R172). -/
def execColor (reg1 : Reg) (s : State) : Answer :=
  State.advance { s with color := (s.reg reg1).extractLsb' 0 8 }

/-- PIXEL emits `(dest, src, color)` (43_io_timing_rnd.md R173). -/
def execPixel (reg1 reg2 : Reg) (s : State) : Answer :=
  match pixelEvent (s.reg reg1) (s.reg reg2) s.color with
  | some e => (s.emit e).advance
  | none => .fault .pixelOutOfGrid

/-- TIME stores the milliseconds since `tref`, modulo 65536 (43_io_timing_rnd.md R174). -/
def execTime (reg1 : Reg) (s : State) : Answer :=
  (s.clockRead.setReg reg1 ((s.nowMillis - s.tref).extractLsb' 0 16)).advance

/-- TIMERST (43_io_timing_rnd.md R175). -/
def execTimerst (s : State) : Answer := State.advance { s.clockRead with tref := s.nowMillis }

/-- RND (43_io_timing_rnd.md R176). -/
def execRnd (reg1 : Reg) (s : State) : Answer := (s.answered.setReg reg1 s.randomDraw).advance

end Sys2Proof.Machine
end

