-- ==== Sys2Proof/Machine/Jumps.lean ====
section
/-! DEFINITION. The jump instructions (44_control_flow.md). -/
namespace Sys2Proof.Machine

/-- JMP: the target is `dest` (44_control_flow.md R183). -/
def execJmp (reg1 : Reg) (s : State) : Answer := s.redirect (s.reg reg1)

/-- JMPI (44_control_flow.md R184). -/
def execJmpi (addr : Word) (s : State) : Answer := s.redirect addr

/-- A conditional jump: the condition is evaluated on the flags as they stand, and the flags are cleared afterwards
whether it holds or not (44_control_flow.md R181, R182). -/
def State.jumpIf (s : State) (cond : Flags → Bool) (addr : Word) : Answer :=
  if cond s.flags then s.redirect addr else s.advance

/-- JEQ (44_control_flow.md R185). -/
def execJeq (addr : Word) (s : State) : Answer := s.jumpIf condJeq addr

/-- JNE (44_control_flow.md R186). -/
def execJne (addr : Word) (s : State) : Answer := s.jumpIf condJne addr

/-- JG (44_control_flow.md R187). -/
def execJg (addr : Word) (s : State) : Answer := s.jumpIf condJg addr

/-- JGE (44_control_flow.md R188). -/
def execJge (addr : Word) (s : State) : Answer := s.jumpIf condJge addr

/-- JA (44_control_flow.md R189). -/
def execJa (addr : Word) (s : State) : Answer := s.jumpIf condJa addr

/-- JAE (44_control_flow.md R190). -/
def execJae (addr : Word) (s : State) : Answer := s.jumpIf condJae addr

/-- JL (44_control_flow.md R191). -/
def execJl (addr : Word) (s : State) : Answer := s.jumpIf condJl addr

/-- JLE (44_control_flow.md R192). -/
def execJle (addr : Word) (s : State) : Answer := s.jumpIf condJle addr

/-- JB (44_control_flow.md R193). -/
def execJb (addr : Word) (s : State) : Answer := s.jumpIf condJb addr

/-- JBE (44_control_flow.md R194). -/
def execJbe (addr : Word) (s : State) : Answer := s.jumpIf condJbe addr

/-- JO (44_control_flow.md R195). -/
def execJo (addr : Word) (s : State) : Answer := s.jumpIf condJo addr

/-- JNO (44_control_flow.md R196). -/
def execJno (addr : Word) (s : State) : Answer := s.jumpIf condJno addr

/-- JS (44_control_flow.md R197). -/
def execJs (addr : Word) (s : State) : Answer := s.jumpIf condJs addr

/-- JNS (44_control_flow.md R198). -/
def execJns (addr : Word) (s : State) : Answer := s.jumpIf condJns addr

end Sys2Proof.Machine
end

