-- ==== Sys2Proof/Machine/Nop.lean ====
section
/-! DEFINITION. NOP and the unknown opcodes (45_nop_unknown.md). -/
namespace Sys2Proof.Machine

/-- NOP (45_nop_unknown.md R200). -/
def execNop (s : State) : Answer := s.advance

/-- An unknown opcode: the pointer advances by 4 and the flags clear; nothing records that it happened
(45_nop_unknown.md R201, D20, log 20). -/
def execUnknown (s : State) : Answer := s.advance

end Sys2Proof.Machine
end

