-- ==== Sys2Proof/Machine/StackCall.lean ====
section
/-! DEFINITION. The stack and subroutine instructions (41_stack_call.md). -/
namespace Sys2Proof.Machine

/-- PUSH: `dest` is read before the stack pointer moves, so PUSH SP pushes the old one (41_stack_call.md R131). -/
def execPush (reg1 : Reg) (s : State) : Answer := orFault (s.pushWord (s.reg reg1)) State.advance

/-- The registers after a POP that read `v`: by the parameter POP_SP_ORDER, `x[reg1] <- v` and then
`x[0] <- x[0] - 2` on the register as it then is (41_stack_call.md R132, D10, log 10). -/
def State.popInto (s : State) (reg1 : Reg) (v : Word) : State :=
  match params.popSpOrder with
  | .loadedMinusTwo => (s.setReg reg1 v).setReg sp ((s.setReg reg1 v).reg sp - 2)
  | .loaded => (s.setReg sp (s.reg sp - 2)).setReg reg1 v

/-- POP (41_stack_call.md R132). -/
def execPop (reg1 : Reg) (s : State) : Answer :=
  orFault (s.loadWord (s.reg sp)) fun v => (s.popInto reg1 v).advance

/-- CALL pushes the address of the CALL itself and redirects (41_stack_call.md R133, D9, log 9). -/
def execCall (addr : Word) (s : State) : Answer :=
  orFault (s.pushWord s.pc) fun t => t.redirect addr

/-- RET pops a return address and redirects to it plus `imm8` plus 4; `imm8` is not taken off the stack pointer
(41_stack_call.md R134, 90_conflicts.md C1, C2). -/
def execRet (imm8 : Byte) (s : State) : Answer :=
  orFault (s.loadWord (s.reg sp)) fun ret =>
    (s.setReg sp (s.reg sp - 2)).redirect (ret + imm8.setWidth 16 + 4)

end Sys2Proof.Machine
end

