-- ==== Sys2Proof/Machine/Dispatch.lean ====
section
/-! DEFINITION. One arm per instruction: its meaning (45_nop_unknown.md R203, part 3). -/
namespace Sys2Proof.Machine

def exec (i : Instr) (s : State) : Host.Outcome State Fault Refusal :=
  match i with
  | .nop => Sys2Proof.Machine.execNop s
  | .input reg1 reg2 => Sys2Proof.Machine.execInput reg1 reg2 s
  | .call addr => Sys2Proof.Machine.execCall addr s
  | .ret imm8 => Sys2Proof.Machine.execRet imm8 s
  | .load reg1 reg2 => Sys2Proof.Machine.execLoad reg1 reg2 s
  | .loadi reg1 imm16 => Sys2Proof.Machine.execLoadi reg1 imm16 s
  | .mov reg1 reg2 => Sys2Proof.Machine.execMov reg1 reg2 s
  | .movi reg1 imm16 => Sys2Proof.Machine.execMovi reg1 imm16 s
  | .push reg1 => Sys2Proof.Machine.execPush reg1 s
  | .pop reg1 => Sys2Proof.Machine.execPop reg1 s
  | .add reg1 reg2 => Sys2Proof.Machine.execAdd reg1 reg2 s
  | .sub reg1 reg2 => Sys2Proof.Machine.execSub reg1 reg2 s
  | .mul reg1 reg2 => Sys2Proof.Machine.execMul reg1 reg2 s
  | .div reg1 reg2 => Sys2Proof.Machine.execDiv reg1 reg2 s
  | .and reg1 reg2 => Sys2Proof.Machine.execAnd reg1 reg2 s
  | .or reg1 reg2 => Sys2Proof.Machine.execOr reg1 reg2 s
  | .xor reg1 reg2 => Sys2Proof.Machine.execXor reg1 reg2 s
  | .shl reg1 reg2 => Sys2Proof.Machine.execShl reg1 reg2 s
  | .shra reg1 reg2 => Sys2Proof.Machine.execShra reg1 reg2 s
  | .shrl reg1 reg2 => Sys2Proof.Machine.execShrl reg1 reg2 s
  | .cmp reg1 reg2 => Sys2Proof.Machine.execCmp reg1 reg2 s
  | .tst reg1 reg2 => Sys2Proof.Machine.execTst reg1 reg2 s
  | .color reg1 => Sys2Proof.Machine.execColor reg1 s
  | .pixel reg1 reg2 => Sys2Proof.Machine.execPixel reg1 reg2 s
  | .stor reg1 reg2 => Sys2Proof.Machine.execStor reg1 reg2 s
  | .stori reg1 imm16 => Sys2Proof.Machine.execStori reg1 imm16 s
  | .time reg1 => Sys2Proof.Machine.execTime reg1 s
  | .timerst => Sys2Proof.Machine.execTimerst s
  | .rnd reg1 => Sys2Proof.Machine.execRnd reg1 s
  | .jmp reg1 => Sys2Proof.Machine.execJmp reg1 s
  | .jmpi addr => Sys2Proof.Machine.execJmpi addr s
  | .jeq addr => Sys2Proof.Machine.execJeq addr s
  | .jne addr => Sys2Proof.Machine.execJne addr s
  | .jg addr => Sys2Proof.Machine.execJg addr s
  | .jge addr => Sys2Proof.Machine.execJge addr s
  | .ja addr => Sys2Proof.Machine.execJa addr s
  | .jae addr => Sys2Proof.Machine.execJae addr s
  | .jl addr => Sys2Proof.Machine.execJl addr s
  | .jle addr => Sys2Proof.Machine.execJle addr s
  | .jb addr => Sys2Proof.Machine.execJb addr s
  | .jbe addr => Sys2Proof.Machine.execJbe addr s
  | .jo addr => Sys2Proof.Machine.execJo addr s
  | .jno addr => Sys2Proof.Machine.execJno addr s
  | .js addr => Sys2Proof.Machine.execJs addr s
  | .jns addr => Sys2Proof.Machine.execJns addr s

end Sys2Proof.Machine
end

