-- ==== Sys2Proof/Machine/Step.lean ====
section
/-! DEFINITION. The step: fetch, decode, execute (45_nop_unknown.md R203). -/
namespace Sys2Proof.Machine

/-- One step of the core. A core that sees the halt request set executes nothing and all its state stays as it is
(60_exceptions.md R222, log 13); otherwise it fetches the word at `pc`, decodes it and executes it. -/
def step (s : State) : Host.Outcome State Fault Refusal :=
  if s.haltRequest then .next s
  else
    match decode s.fetchWord with
    | .instr i => exec i s
    | .unknown _ => execUnknown s

/-- The state with a table word stored where the next step fetches it, most significant byte at `pc`
(30_encoding.md R81), and the halt request clear, without which nothing is fetched (log 25). -/
def State.withFetchWord (s : State) (nbits w : Nat) : State :=
  { s.placeWord s.pc (BitVec.ofNat 32 (w % 2 ^ nbits)) with haltRequest := false }

end Sys2Proof.Machine
end

