-- ==== Sys2Proof/WellFormed.lean ====
section
/-! DEFINITION. Well-formedness. A term of `Instr` carries the bounds of its operands in their types (4, 8 and 16
bits), so what can be ill-formed is what stands before it or around it: an assembly line (wrong operands for its
format, a literal too wide: 30_encoding.md R105, R106), a word (set bits the assembler never sets: R89), an opcode
map (not injective: 00_scope.md R7) and a binary image (too long: 20_memory.md R50). -/
namespace Sys2Proof

/-- The error classes of the assembler (30_encoding.md R110). -/
inductive AsmError where
  | invalidInstructionSyntax
  | invalidLabelDeclarationPosition
  | duplicateLabel
  | unresolvedLabelReference
  | operandTooLarge
  | outputTooLarge
  | unrecognizedToken
  deriving DecidableEq, Repr

/-- An operand as an assembly line writes it (30_encoding.md R102 to R105). -/
inductive Operand where
  | reg (index : Nat)
  | literal (value : Nat)
  | label (name : List Char)
  /-- A token in an operand's place that can be no operand, with the error it is. -/
  | noOperand (e : AsmError)
  deriving DecidableEq, Repr

/-- A mnemonic with the operands written after it (30_encoding.md R105). -/
structure InstrLine where
  mnemonic : Mnemonic
  operands : List Operand
  deriving DecidableEq, Repr

/-- A 16-bit operand: a literal that fits, or a label's offset (30_encoding.md R105, R106). The width of a
literal is measured by its value (DESIGN CHOICE, log 21). -/
def Operand.word (label : List Char → Option Word) : Operand → Except AsmError Word
  | .reg _ => .error .invalidInstructionSyntax
  | .literal n => if n < 65536 then .ok (BitVec.ofNat 16 n) else .error .operandTooLarge
  | .label name =>
    match label name with
    | some v => .ok v
    | none => .error .unresolvedLabelReference
  | .noOperand e => .error e

/-- A register operand: an index of 0 to 15 (30_encoding.md R104, R105). -/
def Operand.register : Operand → Except AsmError Reg
  | .reg n => if n < 16 then .ok (BitVec.ofNat 4 n) else .error .invalidInstructionSyntax
  | .literal _ | .label _ => .error .invalidInstructionSyntax
  | .noOperand e => .error e

/-- An 8-bit literal (30_encoding.md R105, R106). -/
def Operand.byte : Operand → Except AsmError Byte
  | .literal n => if n < 256 then .ok (BitVec.ofNat 8 n) else .error .operandTooLarge
  | .reg _ | .label _ => .error .invalidInstructionSyntax
  | .noOperand e => .error e

/-- The error of a token that can be no operand. -/
def Operand.tokenError : Operand → Option AsmError
  | .noOperand e => some e
  | .reg _ | .literal _ | .label _ => none

/-- The instruction one checked operand gives, or its error. -/
def fromOne {α : Type} (a : Except AsmError α) (mk : α → Instr) : Except (List AsmError) Instr :=
  match a with
  | .ok x => .ok (mk x)
  | .error e => .error [e]

/-- The instruction two checked operands give, or the errors of both (30_encoding.md R110). -/
def fromTwo {α β : Type} (a : Except AsmError α) (b : Except AsmError β) (mk : α → β → Instr) :
    Except (List AsmError) Instr :=
  match a, b with
  | .ok x, .ok y => .ok (mk x y)
  | .error e, .ok _ => .error [e]
  | .ok _, .error e => .error [e]
  | .error e, .error e' => .error [e, e']

/-- The instruction a line stands for, or all its errors: the operand grammar of each format (30_encoding.md R105,
R110). A wrong number of operands is one error, beside those of the tokens that can be no operand (DESIGN CHOICE,
log 21). -/
def InstrLine.toInstr (label : List Char → Option Word) (l : InstrLine) : Except (List AsmError) Instr :=
  match formatOf l.mnemonic, l.operands with
  | .z, [] => .ok (instrOf l.mnemonic {})
  | .rr, [a, b] => fromTwo a.register b.register fun r1 r2 => instrOf l.mnemonic { reg1 := r1, reg2 := r2 }
  | .r, [a] => fromOne a.register fun r1 => instrOf l.mnemonic { reg1 := r1 }
  | .ri, [a, b] => fromTwo a.register (b.word label) fun r1 v => instrOf l.mnemonic { reg1 := r1, imm16 := v }
  | .a, [a] => fromOne (a.word label) fun v => instrOf l.mnemonic { addr := v }
  | .i8, [] => .ok (instrOf l.mnemonic {})
  | .i8, [a] => fromOne a.byte fun v => instrOf l.mnemonic { imm8 := v }
  | _, _ => .error (.invalidInstructionSyntax :: l.operands.filterMap Operand.tokenError)

/-- A line is well formed when it stands for an instruction, its labels taken as resolved. -/
def InstrLine.wellFormed (l : InstrLine) : Bool :=
  match l.toInstr fun _ => some 0 with
  | .ok _ => true
  | .error _ => false

/-- A word is canonical when every bit its format ignores is 0, as the assembler writes it (30_encoding.md
R89). A word of an unknown opcode has no format and is not canonical. -/
def canonicalWord (w : BitVec 32) : Bool :=
  match mnemonicOf (fieldsOf w).opcode with
  | some m => w &&& ignoredBits (formatOf m) == 0
  | none => false

/-- An opcode map may stand for OPC when it is injective and gives ADD the byte 0x0A (00_scope.md R7). -/
def opcodeMapWellFormed (opc : Mnemonic → Byte) : Bool :=
  opc .add == 0x0A && (Mnemonic.all.map opc).Nodup

/-- A binary image fits the memory (20_memory.md R50, 70_reset_and_hazards.md R231). -/
def imageFits (image : List Byte) : Bool := image.length ≤ 65536

end Sys2Proof
end

