-- ==== Sys2Proof/Laws/Encoding.lean ====
section
/-! SUPPORT. What the decoder's fields read back from the six formats (30_encoding.md R82 to R88), and that OPC at its
default is injective (00_scope.md R7). -/
namespace Sys2Proof

/-! ### Format Z -/

theorem opcode_wordZ (op : Byte) : (fieldsOf (wordZ op)).opcode = op := by
  ext i hi
  simp only [fieldsOf, wordZ, BitVec.getElem_extractLsb', BitVec.getLsbD_append]
  interval_cases i <;> rfl

/-! ### Format RR -/

theorem opcode_wordRR (op : Byte) (reg1 reg2 : Reg) : (fieldsOf (wordRR op reg1 reg2)).opcode = op := by
  ext i hi
  simp only [fieldsOf, wordRR, BitVec.getElem_extractLsb', BitVec.getLsbD_append]
  interval_cases i <;> rfl

theorem reg1_wordRR (op : Byte) (reg1 reg2 : Reg) : (fieldsOf (wordRR op reg1 reg2)).reg1 = reg1 := by
  ext i hi
  simp only [fieldsOf, wordRR, BitVec.getElem_extractLsb', BitVec.getLsbD_append]
  interval_cases i <;> rfl

theorem reg2_wordRR (op : Byte) (reg1 reg2 : Reg) : (fieldsOf (wordRR op reg1 reg2)).reg2 = reg2 := by
  ext i hi
  simp only [fieldsOf, wordRR, BitVec.getElem_extractLsb', BitVec.getLsbD_append]
  interval_cases i <;> rfl

/-! ### Format R -/

theorem opcode_wordR (op : Byte) (reg1 : Reg) : (fieldsOf (wordR op reg1)).opcode = op := by
  ext i hi
  simp only [fieldsOf, wordR, BitVec.getElem_extractLsb', BitVec.getLsbD_append]
  interval_cases i <;> rfl

theorem reg1_wordR (op : Byte) (reg1 : Reg) : (fieldsOf (wordR op reg1)).reg1 = reg1 := by
  ext i hi
  simp only [fieldsOf, wordR, BitVec.getElem_extractLsb', BitVec.getLsbD_append]
  interval_cases i <;> rfl

/-! ### Format RI -/

theorem opcode_wordRI (op : Byte) (reg1 : Reg) (imm16 : Word) : (fieldsOf (wordRI op reg1 imm16)).opcode = op := by
  ext i hi
  simp only [fieldsOf, wordRI, BitVec.getElem_extractLsb', BitVec.getLsbD_append]
  interval_cases i <;> rfl

theorem reg1_wordRI (op : Byte) (reg1 : Reg) (imm16 : Word) : (fieldsOf (wordRI op reg1 imm16)).reg1 = reg1 := by
  ext i hi
  simp only [fieldsOf, wordRI, BitVec.getElem_extractLsb', BitVec.getLsbD_append]
  interval_cases i <;> rfl

theorem imm16_wordRI (op : Byte) (reg1 : Reg) (imm16 : Word) : (fieldsOf (wordRI op reg1 imm16)).imm16 = imm16 := by
  ext i hi
  simp only [fieldsOf, wordRI, BitVec.getElem_extractLsb', BitVec.getLsbD_append]
  interval_cases i <;> rfl

/-! ### Format A -/

theorem opcode_wordA (op : Byte) (addr : Word) : (fieldsOf (wordA op addr)).opcode = op := by
  ext i hi
  simp only [fieldsOf, wordA, BitVec.getElem_extractLsb', BitVec.getLsbD_append]
  interval_cases i <;> rfl

theorem addr_wordA (op : Byte) (addr : Word) : (fieldsOf (wordA op addr)).addr = addr := by
  ext i hi
  simp only [fieldsOf, wordA, BitVec.getElem_extractLsb', BitVec.getLsbD_append]
  interval_cases i <;> rfl

/-! ### Format I8 -/

theorem opcode_wordI8 (op : Byte) (imm8 : Byte) : (fieldsOf (wordI8 op imm8)).opcode = op := by
  ext i hi
  simp only [fieldsOf, wordI8, BitVec.getElem_extractLsb', BitVec.getLsbD_append]
  interval_cases i <;> rfl

theorem imm8_wordI8 (op : Byte) (imm8 : Byte) : (fieldsOf (wordI8 op imm8)).imm8 = imm8 := by
  ext i hi
  simp only [fieldsOf, wordI8, BitVec.getElem_extractLsb', BitVec.getLsbD_append]
  interval_cases i <;> rfl

/-! ### OPC -/

/-- OPC read backwards gives back every mnemonic (00_scope.md R7). -/
theorem mnemonicOf_opcodeOf (m : Mnemonic) : mnemonicOf (opcodeOf m) = some m := by cases m <;> rfl

theorem opcodeOf_of_mnemonicOf {opcode : Byte} {m : Mnemonic} (h : mnemonicOf opcode = some m) : opcodeOf m = opcode := by
  have := List.find?_some h
  simpa using this

/-- A known opcode byte decodes to its mnemonic's instruction. -/
theorem decode_of_opcode {w : BitVec 32} {m : Mnemonic} (h : (fieldsOf w).opcode = opcodeOf m) :
    decode w = .instr (instrOf m (fieldsOf w)) := by
  simp [decode, h, mnemonicOf_opcodeOf]

end Sys2Proof
end

