-- ==== Sys2Proof/Laws/PerInstr.lean ====
section
/-! SUPPORT. What is said of every instruction as syntax, one lemma per constructor. -/
namespace Sys2Proof.Laws

/-- Byte 0 of an instruction's encoding is the opcode of its mnemonic (30_encoding.md R80). -/
def OpcodeByte.Statement (i : Instr) : Prop := (fieldsOf (encode i)).opcode = opcodeOf i.mnemonic

theorem OpcodeByte.nop : OpcodeByte.Statement .nop := opcode_wordZ _
theorem OpcodeByte.input (reg1 reg2 : Reg) : OpcodeByte.Statement (.input reg1 reg2) := opcode_wordRR _ _ _
theorem OpcodeByte.call (addr : Word) : OpcodeByte.Statement (.call addr) := opcode_wordA _ _
theorem OpcodeByte.ret (imm8 : Byte) : OpcodeByte.Statement (.ret imm8) := opcode_wordI8 _ _
theorem OpcodeByte.load (reg1 reg2 : Reg) : OpcodeByte.Statement (.load reg1 reg2) := opcode_wordRR _ _ _
theorem OpcodeByte.loadi (reg1 : Reg) (imm16 : Word) : OpcodeByte.Statement (.loadi reg1 imm16) := opcode_wordRI _ _ _
theorem OpcodeByte.mov (reg1 reg2 : Reg) : OpcodeByte.Statement (.mov reg1 reg2) := opcode_wordRR _ _ _
theorem OpcodeByte.movi (reg1 : Reg) (imm16 : Word) : OpcodeByte.Statement (.movi reg1 imm16) := opcode_wordRI _ _ _
theorem OpcodeByte.push (reg1 : Reg) : OpcodeByte.Statement (.push reg1) := opcode_wordR _ _
theorem OpcodeByte.pop (reg1 : Reg) : OpcodeByte.Statement (.pop reg1) := opcode_wordR _ _
theorem OpcodeByte.add (reg1 reg2 : Reg) : OpcodeByte.Statement (.add reg1 reg2) := opcode_wordRR _ _ _
theorem OpcodeByte.sub (reg1 reg2 : Reg) : OpcodeByte.Statement (.sub reg1 reg2) := opcode_wordRR _ _ _
theorem OpcodeByte.mul (reg1 reg2 : Reg) : OpcodeByte.Statement (.mul reg1 reg2) := opcode_wordRR _ _ _
theorem OpcodeByte.div (reg1 reg2 : Reg) : OpcodeByte.Statement (.div reg1 reg2) := opcode_wordRR _ _ _
theorem OpcodeByte.and (reg1 reg2 : Reg) : OpcodeByte.Statement (.and reg1 reg2) := opcode_wordRR _ _ _
theorem OpcodeByte.or (reg1 reg2 : Reg) : OpcodeByte.Statement (.or reg1 reg2) := opcode_wordRR _ _ _
theorem OpcodeByte.xor (reg1 reg2 : Reg) : OpcodeByte.Statement (.xor reg1 reg2) := opcode_wordRR _ _ _
theorem OpcodeByte.shl (reg1 reg2 : Reg) : OpcodeByte.Statement (.shl reg1 reg2) := opcode_wordRR _ _ _
theorem OpcodeByte.shra (reg1 reg2 : Reg) : OpcodeByte.Statement (.shra reg1 reg2) := opcode_wordRR _ _ _
theorem OpcodeByte.shrl (reg1 reg2 : Reg) : OpcodeByte.Statement (.shrl reg1 reg2) := opcode_wordRR _ _ _
theorem OpcodeByte.cmp (reg1 reg2 : Reg) : OpcodeByte.Statement (.cmp reg1 reg2) := opcode_wordRR _ _ _
theorem OpcodeByte.tst (reg1 reg2 : Reg) : OpcodeByte.Statement (.tst reg1 reg2) := opcode_wordRR _ _ _
theorem OpcodeByte.color (reg1 : Reg) : OpcodeByte.Statement (.color reg1) := opcode_wordR _ _
theorem OpcodeByte.pixel (reg1 reg2 : Reg) : OpcodeByte.Statement (.pixel reg1 reg2) := opcode_wordRR _ _ _
theorem OpcodeByte.stor (reg1 reg2 : Reg) : OpcodeByte.Statement (.stor reg1 reg2) := opcode_wordRR _ _ _
theorem OpcodeByte.stori (reg1 : Reg) (imm16 : Word) : OpcodeByte.Statement (.stori reg1 imm16) := opcode_wordRI _ _ _
theorem OpcodeByte.time (reg1 : Reg) : OpcodeByte.Statement (.time reg1) := opcode_wordR _ _
theorem OpcodeByte.timerst : OpcodeByte.Statement .timerst := opcode_wordZ _
theorem OpcodeByte.rnd (reg1 : Reg) : OpcodeByte.Statement (.rnd reg1) := opcode_wordR _ _
theorem OpcodeByte.jmp (reg1 : Reg) : OpcodeByte.Statement (.jmp reg1) := opcode_wordR _ _
theorem OpcodeByte.jmpi (addr : Word) : OpcodeByte.Statement (.jmpi addr) := opcode_wordA _ _
theorem OpcodeByte.jeq (addr : Word) : OpcodeByte.Statement (.jeq addr) := opcode_wordA _ _
theorem OpcodeByte.jne (addr : Word) : OpcodeByte.Statement (.jne addr) := opcode_wordA _ _
theorem OpcodeByte.jg (addr : Word) : OpcodeByte.Statement (.jg addr) := opcode_wordA _ _
theorem OpcodeByte.jge (addr : Word) : OpcodeByte.Statement (.jge addr) := opcode_wordA _ _
theorem OpcodeByte.ja (addr : Word) : OpcodeByte.Statement (.ja addr) := opcode_wordA _ _
theorem OpcodeByte.jae (addr : Word) : OpcodeByte.Statement (.jae addr) := opcode_wordA _ _
theorem OpcodeByte.jl (addr : Word) : OpcodeByte.Statement (.jl addr) := opcode_wordA _ _
theorem OpcodeByte.jle (addr : Word) : OpcodeByte.Statement (.jle addr) := opcode_wordA _ _
theorem OpcodeByte.jb (addr : Word) : OpcodeByte.Statement (.jb addr) := opcode_wordA _ _
theorem OpcodeByte.jbe (addr : Word) : OpcodeByte.Statement (.jbe addr) := opcode_wordA _ _
theorem OpcodeByte.jo (addr : Word) : OpcodeByte.Statement (.jo addr) := opcode_wordA _ _
theorem OpcodeByte.jno (addr : Word) : OpcodeByte.Statement (.jno addr) := opcode_wordA _ _
theorem OpcodeByte.js (addr : Word) : OpcodeByte.Statement (.js addr) := opcode_wordA _ _
theorem OpcodeByte.jns (addr : Word) : OpcodeByte.Statement (.jns addr) := opcode_wordA _ _

/-! ### The ignored bits of the six formats -/

theorem ignoredBits_wordZ (op : Byte) : wordZ op &&& ignoredBits .z = 0 := by
  refine BitVec.eq_of_getLsbD_eq fun i hi => ?_
  simp only [wordZ, ignoredBits, BitVec.getLsbD_and, BitVec.getLsbD_append]
  interval_cases i <;> simp

theorem ignoredBits_wordRR (op : Byte) (reg1 reg2 : Reg) : wordRR op reg1 reg2 &&& ignoredBits .rr = 0 := by
  refine BitVec.eq_of_getLsbD_eq fun i hi => ?_
  simp only [wordRR, ignoredBits, BitVec.getLsbD_and, BitVec.getLsbD_append]
  interval_cases i <;> simp

theorem ignoredBits_wordR (op : Byte) (reg1 : Reg) : wordR op reg1 &&& ignoredBits .r = 0 := by
  refine BitVec.eq_of_getLsbD_eq fun i hi => ?_
  simp only [wordR, ignoredBits, BitVec.getLsbD_and, BitVec.getLsbD_append]
  interval_cases i <;> simp

theorem ignoredBits_wordRI (op : Byte) (reg1 : Reg) (imm16 : Word) : wordRI op reg1 imm16 &&& ignoredBits .ri = 0 := by
  refine BitVec.eq_of_getLsbD_eq fun i hi => ?_
  simp only [wordRI, ignoredBits, BitVec.getLsbD_and, BitVec.getLsbD_append]
  interval_cases i <;> simp

theorem ignoredBits_wordA (op : Byte) (addr : Word) : wordA op addr &&& ignoredBits .a = 0 := by
  refine BitVec.eq_of_getLsbD_eq fun i hi => ?_
  simp only [wordA, ignoredBits, BitVec.getLsbD_and, BitVec.getLsbD_append]
  interval_cases i <;> simp

theorem ignoredBits_wordI8 (op : Byte) (imm8 : Byte) : wordI8 op imm8 &&& ignoredBits .i8 = 0 := by
  refine BitVec.eq_of_getLsbD_eq fun i hi => ?_
  simp only [wordI8, ignoredBits, BitVec.getLsbD_and, BitVec.getLsbD_append]
  interval_cases i <;> simp

/-- The encoding has zeros in every bit its format ignores (30_encoding.md R82 to R87, R89). -/
def IgnoredBits.Statement (i : Instr) : Prop := encode i &&& ignoredBits (formatOf i.mnemonic) = 0

theorem IgnoredBits.nop : IgnoredBits.Statement .nop := ignoredBits_wordZ _
theorem IgnoredBits.input (reg1 reg2 : Reg) : IgnoredBits.Statement (.input reg1 reg2) := ignoredBits_wordRR _ _ _
theorem IgnoredBits.call (addr : Word) : IgnoredBits.Statement (.call addr) := ignoredBits_wordA _ _
theorem IgnoredBits.ret (imm8 : Byte) : IgnoredBits.Statement (.ret imm8) := ignoredBits_wordI8 _ _
theorem IgnoredBits.load (reg1 reg2 : Reg) : IgnoredBits.Statement (.load reg1 reg2) := ignoredBits_wordRR _ _ _
theorem IgnoredBits.loadi (reg1 : Reg) (imm16 : Word) : IgnoredBits.Statement (.loadi reg1 imm16) := ignoredBits_wordRI _ _ _
theorem IgnoredBits.mov (reg1 reg2 : Reg) : IgnoredBits.Statement (.mov reg1 reg2) := ignoredBits_wordRR _ _ _
theorem IgnoredBits.movi (reg1 : Reg) (imm16 : Word) : IgnoredBits.Statement (.movi reg1 imm16) := ignoredBits_wordRI _ _ _
theorem IgnoredBits.push (reg1 : Reg) : IgnoredBits.Statement (.push reg1) := ignoredBits_wordR _ _
theorem IgnoredBits.pop (reg1 : Reg) : IgnoredBits.Statement (.pop reg1) := ignoredBits_wordR _ _
theorem IgnoredBits.add (reg1 reg2 : Reg) : IgnoredBits.Statement (.add reg1 reg2) := ignoredBits_wordRR _ _ _
theorem IgnoredBits.sub (reg1 reg2 : Reg) : IgnoredBits.Statement (.sub reg1 reg2) := ignoredBits_wordRR _ _ _
theorem IgnoredBits.mul (reg1 reg2 : Reg) : IgnoredBits.Statement (.mul reg1 reg2) := ignoredBits_wordRR _ _ _
theorem IgnoredBits.div (reg1 reg2 : Reg) : IgnoredBits.Statement (.div reg1 reg2) := ignoredBits_wordRR _ _ _
theorem IgnoredBits.and (reg1 reg2 : Reg) : IgnoredBits.Statement (.and reg1 reg2) := ignoredBits_wordRR _ _ _
theorem IgnoredBits.or (reg1 reg2 : Reg) : IgnoredBits.Statement (.or reg1 reg2) := ignoredBits_wordRR _ _ _
theorem IgnoredBits.xor (reg1 reg2 : Reg) : IgnoredBits.Statement (.xor reg1 reg2) := ignoredBits_wordRR _ _ _
theorem IgnoredBits.shl (reg1 reg2 : Reg) : IgnoredBits.Statement (.shl reg1 reg2) := ignoredBits_wordRR _ _ _
theorem IgnoredBits.shra (reg1 reg2 : Reg) : IgnoredBits.Statement (.shra reg1 reg2) := ignoredBits_wordRR _ _ _
theorem IgnoredBits.shrl (reg1 reg2 : Reg) : IgnoredBits.Statement (.shrl reg1 reg2) := ignoredBits_wordRR _ _ _
theorem IgnoredBits.cmp (reg1 reg2 : Reg) : IgnoredBits.Statement (.cmp reg1 reg2) := ignoredBits_wordRR _ _ _
theorem IgnoredBits.tst (reg1 reg2 : Reg) : IgnoredBits.Statement (.tst reg1 reg2) := ignoredBits_wordRR _ _ _
theorem IgnoredBits.color (reg1 : Reg) : IgnoredBits.Statement (.color reg1) := ignoredBits_wordR _ _
theorem IgnoredBits.pixel (reg1 reg2 : Reg) : IgnoredBits.Statement (.pixel reg1 reg2) := ignoredBits_wordRR _ _ _
theorem IgnoredBits.stor (reg1 reg2 : Reg) : IgnoredBits.Statement (.stor reg1 reg2) := ignoredBits_wordRR _ _ _
theorem IgnoredBits.stori (reg1 : Reg) (imm16 : Word) : IgnoredBits.Statement (.stori reg1 imm16) := ignoredBits_wordRI _ _ _
theorem IgnoredBits.time (reg1 : Reg) : IgnoredBits.Statement (.time reg1) := ignoredBits_wordR _ _
theorem IgnoredBits.timerst : IgnoredBits.Statement .timerst := ignoredBits_wordZ _
theorem IgnoredBits.rnd (reg1 : Reg) : IgnoredBits.Statement (.rnd reg1) := ignoredBits_wordR _ _
theorem IgnoredBits.jmp (reg1 : Reg) : IgnoredBits.Statement (.jmp reg1) := ignoredBits_wordR _ _
theorem IgnoredBits.jmpi (addr : Word) : IgnoredBits.Statement (.jmpi addr) := ignoredBits_wordA _ _
theorem IgnoredBits.jeq (addr : Word) : IgnoredBits.Statement (.jeq addr) := ignoredBits_wordA _ _
theorem IgnoredBits.jne (addr : Word) : IgnoredBits.Statement (.jne addr) := ignoredBits_wordA _ _
theorem IgnoredBits.jg (addr : Word) : IgnoredBits.Statement (.jg addr) := ignoredBits_wordA _ _
theorem IgnoredBits.jge (addr : Word) : IgnoredBits.Statement (.jge addr) := ignoredBits_wordA _ _
theorem IgnoredBits.ja (addr : Word) : IgnoredBits.Statement (.ja addr) := ignoredBits_wordA _ _
theorem IgnoredBits.jae (addr : Word) : IgnoredBits.Statement (.jae addr) := ignoredBits_wordA _ _
theorem IgnoredBits.jl (addr : Word) : IgnoredBits.Statement (.jl addr) := ignoredBits_wordA _ _
theorem IgnoredBits.jle (addr : Word) : IgnoredBits.Statement (.jle addr) := ignoredBits_wordA _ _
theorem IgnoredBits.jb (addr : Word) : IgnoredBits.Statement (.jb addr) := ignoredBits_wordA _ _
theorem IgnoredBits.jbe (addr : Word) : IgnoredBits.Statement (.jbe addr) := ignoredBits_wordA _ _
theorem IgnoredBits.jo (addr : Word) : IgnoredBits.Statement (.jo addr) := ignoredBits_wordA _ _
theorem IgnoredBits.jno (addr : Word) : IgnoredBits.Statement (.jno addr) := ignoredBits_wordA _ _
theorem IgnoredBits.js (addr : Word) : IgnoredBits.Statement (.js addr) := ignoredBits_wordA _ _
theorem IgnoredBits.jns (addr : Word) : IgnoredBits.Statement (.jns addr) := ignoredBits_wordA _ _

end Sys2Proof.Laws
end

