-- ==== Sys2Proof/Machine/Display.lean ====
section
/-! DEFINITION. The display's contract, as a view of the emitted events (60_exceptions.md R218, 10_state.md R32).
The display is a collaborator outside the core: no instruction reads any of this. -/
namespace Sys2Proof.Machine

/-- The colour the grid shows at `(x, y)` after a sequence of events, oldest first: the colour of the last event
there. An event outside the grid has no effect, and what the grid shows before the first event is not stated, hence
none (60_exceptions.md R218, D15, log 15). -/
def shownAt (x y : Word) (events : List PixelEvent) : Option Byte :=
  (events.reverse.find? fun e => onGrid e.px e.py && e.px == x && e.py == y).map PixelEvent.c

/-- The red field of an rgb332 byte, bits 7:5 (10_state.md R32; PRESUMED by the spec, K3, log 28). -/
def redOf (c : Byte) : BitVec 3 := c.extractLsb' 5 3

/-- The green field of an rgb332 byte, bits 4:2 (10_state.md R32; PRESUMED by the spec, K3, log 28). -/
def greenOf (c : Byte) : BitVec 3 := c.extractLsb' 2 3

/-- The blue field of an rgb332 byte, bits 1:0 (10_state.md R32; PRESUMED by the spec, K3, log 28). -/
def blueOf (c : Byte) : BitVec 2 := c.extractLsb' 0 2

end Sys2Proof.Machine
end

