-- ==== Sys2Proof/Machine/Boot.lean ====
section
/-! DEFINITION. What the host does to the core between instructions: load an image, which is the only reset, and
raise or clear the halt request (00_scope.md R9, 70_reset_and_hazards.md R230 to R237, 60_exceptions.md R222). -/
namespace Sys2Proof.Machine

/-- The memory that holds `image` from `base` up and the fill elsewhere (70_reset_and_hazards.md R231). -/
def Memory.ofImage : (base : Nat) → (image : List Byte) → Memory
  | _, [] => []
  | base, b :: image =>
    if b = memoryFill then Memory.ofImage (base + 1) image else (base, b) :: Memory.ofImage (base + 1) image

/-- Loading a binary image (70_reset_and_hazards.md R230 to R237): every piece of core state takes its reset value,
byte `k` of the image lies at address `k`, the halt request is clear, and `tref` is the clock's answer. Nothing of
the core survives; what goes on is outside it: the emitted events, the clock's monotonicity and the count of port
answers (log 24). An image that does not fit cannot exist, so there is no load of one. -/
def State.load (s : State) (image : List Byte) : Option State :=
  if imageFits image then
    some { regs := Vector.replicate 16 params.resetRegs
           pc := alignPc params.resetPc
           flags := Flags.clear
           color := params.resetColor
           tref := s.nowMillis
           mem := Memory.ofImage 0 image
           haltRequest := false
           pixels := s.pixels
           clock := s.nowMillis
           draws := s.draws + 1 }
  else none

/-- The host raises the halt request and the core sees it before its next instruction (60_exceptions.md R222).
How many instructions run between the raising and the seeing is not bounded, so this is the moment it is seen. -/
def State.raiseHalt (s : State) : State := { s with haltRequest := true }

/-- The host calls for more instructions, keeping the state (60_exceptions.md R225). -/
def State.callForMore (s : State) : State := { s with haltRequest := false }

end Sys2Proof.Machine
end

