-- ==== Sys2Proof/Safety.lean ====
section
/-! DEFINITION. What claims about runs are stated with: completing steps, the invariant of the machine, and the
states a load and steps can reach. -/
namespace Sys2Proof.Machine

/-- The answer is a next state: neither a fault nor a refusal (60_exceptions.md R210). -/
def Completes (a : Answer) : Prop := ∃ t, a = .next t

/-- The invariant of the machine. -/
structure State.Inv (s : State) : Prop where
  /-- The pointer is a multiple of 4 (10_state.md R25, R27). -/
  pcAligned : s.pc.toNat % 4 = 0
  /-- The memory is in canonical form. -/
  memWf : Memory.wf s.mem = true
  /-- The timer reference is no later than the clock's last answer (60_exceptions.md R219). -/
  timerBehindClock : s.tref ≤ s.clock

/-- What can happen to the machine between two instructions or by one of them (00_scope.md R8, R9): a step, the
load of an image, the halt request seen, or the host calling for more. -/
inductive Move : State → State → Prop where
  | step {s t : State} : Sys2Proof.Machine.step s = .next t → Move s t
  | load {s t : State} (image : List Byte) : s.load image = some t → Move s t
  | raiseHalt (s : State) : Move s s.raiseHalt
  | callForMore (s : State) : Move s s.callForMore

/-- The states the machine can be in: reset, and whatever moves lead to from there. -/
inductive Reachable : State → Prop where
  | reset : Reachable State.reset
  | move {s t : State} : Reachable s → Move s t → Reachable t

end Sys2Proof.Machine
end

