-- ==== Sys2Proof/Certificates/Slice0/Obligations.lean ====
section
/-! DEFINITION. The statements for the provers.

Three things hold of every statement about an instruction and are not said again at each:
* opcode bytes are read through `opcodeOf`, the parameter OPC (`params.opc`), so no statement but the three encoding ones that
  say so rests on its numbers ("every semantic rule is keyed by mnemonic", 30_encoding.md R91, log 1);
* where `pc + 4`, a target or a stack address passes 0xFFFF it wraps, the spec's decision D7 (log 7), and the second
  byte of an access at 0xFFFF is at address 0, the spec's decision D6 (log 6); that a 16-bit access may be at any byte
  address, odd ones included, is its decision D8 (log 8);
* the result of the ports are the free values of Config.lean, so each statement holds for every answer. -/

namespace Sys2Proof.Statements
open Sys2Proof.Machine

/-! ### How a mnemonic's words are read (30_encoding.md R82 to R88) -/

/-- Format Z. -/
def ReadsZ (m : Mnemonic) (i : Instr) : Prop :=
  ∀ w : BitVec 32, w.extractLsb' 24 8 = opcodeOf m → decode w = .instr i

/-- Format RR. -/
def ReadsRR (m : Mnemonic) (mk : Reg → Reg → Instr) : Prop :=
  ∀ w : BitVec 32, w.extractLsb' 24 8 = opcodeOf m → decode w = .instr (mk (w.extractLsb' 16 4) (w.extractLsb' 8 4))

/-- Format R. -/
def ReadsR (m : Mnemonic) (mk : Reg → Instr) : Prop :=
  ∀ w : BitVec 32, w.extractLsb' 24 8 = opcodeOf m → decode w = .instr (mk (w.extractLsb' 16 4))

/-- Format RI. -/
def ReadsRI (m : Mnemonic) (mk : Reg → Word → Instr) : Prop :=
  ∀ w : BitVec 32, w.extractLsb' 24 8 = opcodeOf m → decode w = .instr (mk (w.extractLsb' 16 4) (w.extractLsb' 0 16))

/-- Format A. -/
def ReadsA (m : Mnemonic) (mk : Word → Instr) : Prop :=
  ∀ w : BitVec 32, w.extractLsb' 24 8 = opcodeOf m → decode w = .instr (mk (w.extractLsb' 8 16))

/-- Format I8. -/
def ReadsI8 (m : Mnemonic) (mk : Byte → Instr) : Prop :=
  ∀ w : BitVec 32, w.extractLsb' 24 8 = opcodeOf m → decode w = .instr (mk (w.extractLsb' 16 8))

/-! ### Frames -/

/-- Every register is as before. -/
def SameRegs (s t : State) : Prop := ∀ q, t.reg q = s.reg q

/-- Every register but `r` is as before. -/
def SameRegsBut (r : Reg) (s t : State) : Prop := ∀ q, q ≠ r → t.reg q = s.reg q

/-- Every byte of memory reads as before. -/
def SameMemory (s t : State) : Prop := ∀ a, t.byteAt a = s.byteAt a

/-- Every byte of memory but the two of the word at `a` reads as before. -/
def SameMemoryBut (a : Word) (s t : State) : Prop := ∀ k, k ≠ a → k ≠ a + 1 → t.byteAt k = s.byteAt k

/-- The colour register, the timer reference, the halt request, the emitted events and the ports' bookkeeping are
as before. -/
def SameDevices (s t : State) : Prop :=
  t.color = s.color ∧ t.tref = s.tref ∧ t.haltRequest = s.haltRequest ∧ t.pixels = s.pixels ∧ t.clock = s.clock ∧
    t.draws = s.draws

/-- The end of a non-arithmetic instruction with next pointer `target`: the low two bits cleared, all flags false
(10_state.md R27, R30). -/
def Ends (target : Word) (t : State) : Prop := t.pc = target &&& 0xFFFC#16 ∧ t.flags = ⟨false, false, false, false⟩

/-- The word at an address, big-endian (20_memory.md R51, R52). -/
def wordAt (s : State) (a : Word) : Word := s.byteAt a ++ s.byteAt (a + 1)

/-- An arithmetic instruction that stores `v` in `reg1`, leaves the flags `V C Z S` and changes nothing else but the
pointer (42_alu.md R140). -/
def Stores (i : Instr) (s : State) (reg1 : Reg) (v : Word) (f : Flags) : Prop :=
  ∃ t, exec i s = .next t ∧ t.reg reg1 = v ∧ SameRegsBut reg1 s t ∧ t.flags = f ∧ t.pc = (s.pc + 4) &&& 0xFFFC#16 ∧
    SameMemory s t ∧ SameDevices s t

/-- An arithmetic instruction that stores nothing and leaves the flags `V C Z S` (42_alu.md R140). -/
def Tests (i : Instr) (s : State) (f : Flags) : Prop :=
  ∃ t, exec i s = .next t ∧ SameRegs s t ∧ t.flags = f ∧ t.pc = (s.pc + 4) &&& 0xFFFC#16 ∧ SameMemory s t ∧
    SameDevices s t

/-- A jump: with next pointer `target`, flags cleared, and nothing else changed (44_control_flow.md R180, R181). -/
def GoesTo (i : Instr) (s : State) (target : Word) : Prop :=
  ∃ t, exec i s = .next t ∧ Ends target t ∧ SameRegs s t ∧ SameMemory s t ∧ SameDevices s t

/-- A conditional jump: format A, and to `addr` exactly when the condition holds of the flags before
(44_control_flow.md section 3). -/
def ConditionalJump (m : Mnemonic) (mk : Word → Instr) (cond : Flags → Prop) : Prop :=
  ReadsA m mk ∧ ∀ addr s, (cond s.flags → GoesTo (mk addr) s addr) ∧ (¬ cond s.flags → GoesTo (mk addr) s (s.pc + 4))

/-- What the byte at `k` becomes when the word `v` is stored at `a` (20_memory.md R51, R52). -/
def byteAfterStore (s : State) (a v k : Word) : Byte :=
  if k = a then v.extractLsb' 8 8 else if k = a + 1 then v.extractLsb' 0 8 else s.byteAt k

/-- The four bytes from `n` up when the word `v` is stored at `a`. -/
def fetchAfterStore (s : State) (a v n : Word) : BitVec 32 :=
  byteAfterStore s a v n ++ byteAfterStore s a v (n + 1) ++ byteAfterStore s a v (n + 2) ++ byteAfterStore s a v (n + 3)

/-- `i` stores `v` at `a` and goes on at `n`, and the very next step runs what the four bytes at `n` then decode to, be
it an instruction or an unknown opcode. -/
def SeenByTheNextFetch (i : Instr) (s : State) (a v n : Word) : Prop :=
  ∃ t, exec i s = .next t ∧ t.pc = n ∧
    (∀ j, decode (fetchAfterStore s a v n) = .instr j → step t = exec j t) ∧
    (∀ op, decode (fetchAfterStore s a v n) = .unknown op →
      ∃ u, step t = .next u ∧ Ends (t.pc + 4) u ∧ SameRegs t u ∧ SameMemory t u ∧ SameDevices t u)

/-- The twelve arithmetic opcodes (00_scope.md R15). -/
def arithmetic : List Mnemonic := [.add, .sub, .mul, .div, .and, .or, .xor, .shl, .shra, .shrl, .cmp, .tst]

/-- The fourteen conditional jumps. -/
def conditionalJumps : List Mnemonic :=
  [.jeq, .jne, .jg, .jge, .ja, .jae, .jl, .jle, .jb, .jbe, .jo, .jno, .js, .jns]

/-- Every combination of the four flags (44_control_flow.md R182). -/
def allFlags : List Flags :=
  [⟨false, false, false, false⟩, ⟨false, false, false, true⟩, ⟨false, false, true, false⟩, ⟨false, false, true, true⟩,
   ⟨false, true, false, false⟩, ⟨false, true, false, true⟩, ⟨false, true, true, false⟩, ⟨false, true, true, true⟩,
   ⟨true, false, false, false⟩, ⟨true, false, false, true⟩, ⟨true, false, true, false⟩, ⟨true, false, true, true⟩,
   ⟨true, true, false, false⟩, ⟨true, true, false, true⟩, ⟨true, true, true, false⟩, ⟨true, true, true, true⟩]

end Sys2Proof.Statements

section
open Sys2Proof Sys2Proof.Machine Sys2Proof.Statements

/-! ### Encoding -/

/-- Decode and encode agree: every instruction is read back from its word with every operand value
(30_encoding.md R82 to R88). Injectivity of OPC (00_scope.md R7) is part of it. -/
def Obligations.DecodeOfEncodeGivesTheInstruction : Prop := ∀ i : Instr, decode (encode i) = .instr i

/-- The other direction: an instruction's encoding is the word it was read from with the ignored bits cleared
(30_encoding.md R89). -/
def Obligations.EncodeOfDecodeClearsIgnoredBits : Prop :=
  ∀ (w : BitVec 32) (i : Instr), decode w = .instr i → encode i = w &&& ~~~ ignoredBits (formatOf i.mnemonic)

/-- "A word with non-zero bits there executes exactly like the word with zeros" (30_encoding.md R89): two words that
differ only in bits the format ignores decode alike. -/
def Obligations.IgnoredBitsDoNotChangeDecoding : Prop :=
  ∀ (w v : BitVec 32) (m : Mnemonic), w.extractLsb' 24 8 = opcodeOf m →
    w &&& ~~~ ignoredBits (formatOf m) = v &&& ~~~ ignoredBits (formatOf m) → decode v = decode w

/-- Which opcode bytes are unknown under the default OPC, a choice of the spec (D1, log 1): 0x1D to 0x2F and 0x40 to
0xFF (30_encoding.md R92); every word with such a byte is read as unknown, whatever bytes 1 to 3 are. -/
def Obligations.UnknownOpcodesUnderDefaultMap : Prop :=
  ∀ w : BitVec 32,
    decode w = .unknown (w.extractLsb' 24 8) ↔
      (0x1D#8 ≤ w.extractLsb' 24 8 ∧ w.extractLsb' 24 8 ≤ 0x2F#8) ∨ 0x40#8 ≤ w.extractLsb' 24 8

/-- One word of each format, written out from 30_encoding.md R82 to R87 and R91 (the opcode numbers but ADD's are
the spec's choice D1, log 1); `ADD R2 R3` is the source's own example (95_test_vectors.md L1-2). -/
def Obligations.WrittenOutWordsDecode : Prop :=
  decode 0x00000000#32 = .instr .nop ∧ decode 0x0A020300#32 = .instr (.add 2 3) ∧
    decode 0x08020000#32 = .instr (.push 2) ∧ decode 0x0702FFFF#32 = .instr (.movi 2 0xFFFF) ∧
    decode 0x31000800#32 = .instr (.jmpi 0x0008) ∧ decode 0x03020000#32 = .instr (.ret 0x02) ∧
    decode 0x06F3A277#32 = .instr (.mov 3 2) ∧ decode 0xFF123456#32 = .unknown 0xFF

/-! ### The step -/

/-- A step of a core that is not halted runs the instruction that the four bytes at `pc` decode to, byte 0 the
opcode (20_memory.md R53, 45_nop_unknown.md R203); `exec` does the whole rest of the step. -/
def Obligations.StepRunsTheDecodedInstruction : Prop :=
  ∀ (s : State) (i : Instr), s.haltRequest = false →
    decode (s.byteAt s.pc ++ s.byteAt (s.pc + 1) ++ s.byteAt (s.pc + 2) ++ s.byteAt (s.pc + 3)) = .instr i →
    step s = exec i s

/-- An unknown opcode byte at `pc`, whatever the three bytes after it: the pointer advances by 4, the flags clear,
nothing else changes (45_nop_unknown.md R201).
Where `pc + 4` passes 0xFFFF it wraps, the spec's decision D7 (log 7). -/
def Obligations.StepRunsUnknownOpcodeAsNoOp : Prop :=
  ∀ s : State, s.haltRequest = false → (∀ m, opcodeOf m ≠ s.byteAt s.pc) →
    ∃ t, step s = .next t ∧ Ends (s.pc + 4) t ∧ SameRegs s t ∧ SameMemory s t ∧ SameDevices s t

/-- Once the core sees the halt request it executes no further instruction and its state keeps its values; called
for more, it goes on from that state (60_exceptions.md R222, R225; the sampling point is the spec's decision D13,
log 13). -/
def Obligations.HaltedCoreKeepsItsState : Prop :=
  ∀ s : State, step s.raiseHalt = .next s.raiseHalt ∧
    (s.haltRequest = false → step s.raiseHalt.callForMore = step s)

/-- No step of any state stops with a fault or is refused (60_exceptions.md R210). -/
def Obligations.StepNeverRaisesAnException : Prop := ∀ s : State, ∃ t, step s = .next t

/-- The word the host places at the pointer is the word the next step fetches, at every pointer (log 25). -/
def Obligations.PlacedWordIsFetched : Prop :=
  ∀ (s : State) (w : BitVec 32), (s.withFetchWord 32 w.toNat).haltRequest = false ∧
    (s.withFetchWord 32 w.toNat).fetchWord = w ∧ (s.withFetchWord 32 w.toNat).pc = s.pc

/-- A store is seen by the fetch of the very next instruction (20_memory.md R67): after each of the four storing
instructions, wherever it stores and whichever of the next instruction's bytes it overwrites, the next step runs what
those bytes then decode to, an unknown opcode included. CALL's stored word is the spec's decision D9 (log 9). -/
def Obligations.StoreIsSeenByTheNextFetch : Prop :=
  ∀ s : State, s.haltRequest = false →
    (∀ reg1 reg2, SeenByTheNextFetch (.stor reg1 reg2) s (s.reg reg2) (s.reg reg1) (s.pc + 4 &&& 0xFFFC#16)) ∧
    (∀ reg1 imm16, SeenByTheNextFetch (.stori reg1 imm16) s imm16 (s.reg reg1) (s.pc + 4 &&& 0xFFFC#16)) ∧
    (∀ reg1, SeenByTheNextFetch (.push reg1) s (s.reg sp + 2) (s.reg reg1) (s.pc + 4 &&& 0xFFFC#16)) ∧
    (∀ addr, SeenByTheNextFetch (.call addr) s (s.reg sp + 2) s.pc (addr &&& 0xFFFC#16))

/-! ### Data movement -/

/-- MOV (40_data_move.md R121).
Where `pc + 4` passes 0xFFFF it wraps, the spec's decision D7 (log 7). -/
def Obligations.MovCopiesARegister : Prop :=
  ReadsRR .mov .mov ∧ ∀ reg1 reg2 s, ∃ t, exec (.mov reg1 reg2) s = .next t ∧ t.reg reg1 = s.reg reg2 ∧
    SameRegsBut reg1 s t ∧ SameMemory s t ∧ SameDevices s t ∧ Ends (s.pc + 4) t

/-- MOVI (40_data_move.md R122).
Where `pc + 4` passes 0xFFFF it wraps, the spec's decision D7 (log 7). -/
def Obligations.MoviLoadsTheImmediate : Prop :=
  ReadsRI .movi .movi ∧ ∀ reg1 imm16 s, ∃ t, exec (.movi reg1 imm16) s = .next t ∧ t.reg reg1 = imm16 ∧
    SameRegsBut reg1 s t ∧ SameMemory s t ∧ SameDevices s t ∧ Ends (s.pc + 4) t

/-- LOAD and LOADI (40_data_move.md R123, R124): the big-endian word at any byte address, odd ones included, which is
the spec's decision D8 (log 8); at 0xFFFF the low byte is at address 0, its decision D6 (log 6). -/
def Obligations.LoadsReadABigEndianWord : Prop :=
  (ReadsRR .load .load ∧ ∀ reg1 reg2 s, ∃ t, exec (.load reg1 reg2) s = .next t ∧
    t.reg reg1 = wordAt s (s.reg reg2) ∧ SameRegsBut reg1 s t ∧ SameMemory s t ∧ SameDevices s t ∧ Ends (s.pc + 4) t) ∧
  (ReadsRI .loadi .loadi ∧ ∀ reg1 imm16 s, ∃ t, exec (.loadi reg1 imm16) s = .next t ∧
    t.reg reg1 = wordAt s imm16 ∧ SameRegsBut reg1 s t ∧ SameMemory s t ∧ SameDevices s t ∧ Ends (s.pc + 4) t)

/-- STOR and STORI (40_data_move.md R125, R126): the two bytes of `dest` at `src` or `imm16`, high byte first, and no
other byte and no register. That any byte address will do, odd ones included, is the spec's decision D8 (log 8); at
0xFFFF the low byte goes to address 0, its decision D6 (log 6). -/
def Obligations.StoresWriteABigEndianWord : Prop :=
  (ReadsRR .stor .stor ∧ ∀ reg1 reg2 s, ∃ t, exec (.stor reg1 reg2) s = .next t ∧
    t.byteAt (s.reg reg2) = (s.reg reg1).extractLsb' 8 8 ∧ t.byteAt (s.reg reg2 + 1) = (s.reg reg1).extractLsb' 0 8 ∧
    SameMemoryBut (s.reg reg2) s t ∧ SameRegs s t ∧ SameDevices s t ∧ Ends (s.pc + 4) t) ∧
  (ReadsRI .stori .stori ∧ ∀ reg1 imm16 s, ∃ t, exec (.stori reg1 imm16) s = .next t ∧
    t.byteAt imm16 = (s.reg reg1).extractLsb' 8 8 ∧ t.byteAt (imm16 + 1) = (s.reg reg1).extractLsb' 0 8 ∧
    SameMemoryBut imm16 s t ∧ SameRegs s t ∧ SameDevices s t ∧ Ends (s.pc + 4) t)

/-- A load returns what the most recent store to its two bytes wrote (20_memory.md R64), whatever runs in between
that neither stores to them nor changes the address: here a LOAD right after a STOR through the same address register,
for every address, odd ones (D8, log 8) and 0xFFFF (D6, log 6) included. -/
def Obligations.LoadAfterStoreReturnsTheWord : Prop :=
  ∀ (s : State) (p a q : Reg), ∃ t u, exec (.stor p a) s = .next t ∧ exec (.load q a) t = .next u ∧
    u.reg q = s.reg p ∧ SameRegsBut q s u

/-! ### Stack and subroutines. `sp` is register 0. -/

/-- PUSH (41_stack_call.md R131): `dest` as read before the stack pointer moves, at the new stack pointer. PUSH SP
pushes the old stack pointer. -/
def Obligations.PushStoresAboveTheStackPointer : Prop :=
  ReadsR .push .push ∧ ∀ reg1 s, ∃ t, exec (.push reg1) s = .next t ∧ t.reg sp = s.reg sp + 2 ∧ SameRegsBut sp s t ∧
    t.byteAt (s.reg sp + 2) = (s.reg reg1).extractLsb' 8 8 ∧ t.byteAt (s.reg sp + 2 + 1) = (s.reg reg1).extractLsb' 0 8 ∧
    SameMemoryBut (s.reg sp + 2) s t ∧ SameDevices s t ∧ Ends (s.pc + 4) t

/-- POP (41_stack_call.md R132): the word at the old stack pointer, which then loses 2. With register 0 as
destination it ends as the loaded word minus 2, the spec's decision D10 (log 10). -/
def Obligations.PopLoadsFromTheStackPointer : Prop :=
  ReadsR .pop .pop ∧ ∀ reg1 s, ∃ t, exec (.pop reg1) s = .next t ∧
    (reg1 ≠ sp → t.reg reg1 = wordAt s (s.reg sp) ∧ t.reg sp = s.reg sp - 2) ∧
    (reg1 = sp → t.reg sp = wordAt s (s.reg sp) - 2) ∧
    (∀ q, q ≠ reg1 → q ≠ sp → t.reg q = s.reg q) ∧ SameMemory s t ∧ SameDevices s t ∧ Ends (s.pc + 4) t

/-- "Pushing value V then popping must return V and restore SP to its pre-push value, for all V" (41_stack_call.md
R132): from every stack pointer, for registers other than 0, and no other register changes. -/
def Obligations.PopAfterPushRestores : Prop :=
  ∀ (s : State) (p q : Reg), p ≠ sp → q ≠ sp → ∃ t u, exec (.push p) s = .next t ∧ exec (.pop q) t = .next u ∧
    u.reg q = s.reg p ∧ u.reg sp = s.reg sp ∧ SameRegsBut q s u

/-- CALL (41_stack_call.md R133): it pushes its own address, the spec's decision D9 (log 9), and redirects. -/
def Obligations.CallPushesItsAddressAndRedirects : Prop :=
  ReadsA .call .call ∧ ∀ addr s, ∃ t, exec (.call addr) s = .next t ∧ t.reg sp = s.reg sp + 2 ∧ SameRegsBut sp s t ∧
    t.byteAt (s.reg sp + 2) = s.pc.extractLsb' 8 8 ∧ t.byteAt (s.reg sp + 2 + 1) = s.pc.extractLsb' 0 8 ∧
    SameMemoryBut (s.reg sp + 2) s t ∧ SameDevices s t ∧ Ends addr t

/-- RET (41_stack_call.md R134, 90_conflicts.md C1, C2): the popped word plus `imm8` plus 4; the stack pointer loses
2 whatever `imm8` is. -/
def Obligations.RetAddsItsImmediateToThePoppedAddress : Prop :=
  ReadsI8 .ret .ret ∧ ∀ imm8 s, ∃ t, exec (.ret imm8) s = .next t ∧ t.reg sp = s.reg sp - 2 ∧ SameRegsBut sp s t ∧
    SameMemory s t ∧ SameDevices s t ∧ Ends (wordAt s (s.reg sp) + imm8.setWidth 16 + 4) t

/-- A RET after an untouched CALL resumes at the CALL's address plus 4 plus `imm8 & 0xFC`, with every register as
before the CALL (41_stack_call.md R134; the pushed value is the spec's decision D9, log 9). -/
def Obligations.RetAfterCallResumesBehindTheCall : Prop :=
  ∀ (s : State) (addr : Word) (imm8 : Byte), s.pc.toNat % 4 = 0 → ∃ t u, exec (.call addr) s = .next t ∧
    exec (.ret imm8) t = .next u ∧ u.pc = s.pc + 4 + (imm8 &&& 0xFC#8).setWidth 16 ∧ SameRegs s u

/-! ### Arithmetic and logic. Flags are written `⟨V, C, Z, S⟩`. -/

/-- ADD (42_alu.md R146, with the flags by R142 to R145).
Where `pc + 4` passes 0xFFFF it wraps, the spec's decision D7 (log 7). -/
def Obligations.AddStoresTheSum : Prop :=
  ReadsRR .add .add ∧ ∀ (reg1 reg2 : Reg) (s : State),
    Stores (.add reg1 reg2) s reg1 (BitVec.ofNat 16 ((s.reg reg1).toNat + (s.reg reg2).toNat))
      ⟨(s.reg reg1).msb == (s.reg reg2).msb && (s.reg reg1 + s.reg reg2).msb != (s.reg reg1).msb,
        decide ((s.reg reg1).toNat + (s.reg reg2).toNat > 0xFFFF),
        decide (s.reg reg1 + s.reg reg2 = 0), (s.reg reg1 + s.reg reg2).msb⟩

/-- SUB (42_alu.md R147, with the flags by R142 to R145). That a negative difference is read in two's complement, on
which the stored word and V, Z and S after a borrow rest, is the spec's decision D14 (log 14). -/
def Obligations.SubStoresTheDifference : Prop :=
  ReadsRR .sub .sub ∧ ∀ (reg1 reg2 : Reg) (s : State),
    Stores (.sub reg1 reg2) s reg1 (BitVec.ofInt 16 ((s.reg reg1).toNat - (s.reg reg2).toNat))
      ⟨(!(s.reg reg1).msb && (s.reg reg2).msb && (s.reg reg1 - s.reg reg2).msb) ||
          ((s.reg reg1).msb && !(s.reg reg2).msb && !(s.reg reg1 - s.reg reg2).msb),
        decide ((s.reg reg1).toNat < (s.reg reg2).toNat),
        decide (s.reg reg1 - s.reg reg2 = 0), (s.reg reg1 - s.reg reg2).msb⟩

/-- MUL (42_alu.md R148). The operator and the unsigned reading are the spec's decisions D3 and D2 (log 3, 2). -/
def Obligations.MulStoresTheLowHalf : Prop :=
  ReadsRR .mul .mul ∧ ∀ (reg1 reg2 : Reg) (s : State),
    Stores (.mul reg1 reg2) s reg1 (BitVec.ofNat 16 ((s.reg reg1).toNat * (s.reg reg2).toNat))
      ⟨false, decide ((s.reg reg1).toNat * (s.reg reg2).toNat > 0xFFFF),
        decide ((s.reg reg1).toNat * (s.reg reg2).toNat % 65536 = 0), (s.reg reg1 * s.reg reg2).msb⟩

/-- DIV (42_alu.md R149): the unsigned quotient; with `src = 0` the parameter DIV0_REG is stored and the flags are
those of 0xFFFF. The unsigned reading is the spec's decision D2 and DIV0_REG its decision D5 (log 2, 5). -/
def Obligations.DivStoresTheQuotient : Prop :=
  ReadsRR .div .div ∧ ∀ (reg1 reg2 : Reg) (s : State),
    (s.reg reg2 ≠ 0 → Stores (.div reg1 reg2) s reg1 (BitVec.ofNat 16 ((s.reg reg1).toNat / (s.reg reg2).toNat))
      ⟨false, false, decide ((s.reg reg1).toNat < (s.reg reg2).toNat),
        decide (0x8000 ≤ (s.reg reg1).toNat / (s.reg reg2).toNat)⟩) ∧
    (s.reg reg2 = 0 → Stores (.div reg1 reg2) s reg1 params.div0Reg ⟨false, false, false, true⟩)

/-- AND, OR, XOR (42_alu.md R150, R151, R152). The operators are the spec's decision D3 (log 3). -/
def Obligations.BitwiseOperatorsStoreTheirBits : Prop :=
  (ReadsRR .and .and ∧ ∀ (reg1 reg2 : Reg) (s : State), Stores (.and reg1 reg2) s reg1 (s.reg reg1 &&& s.reg reg2)
    ⟨false, false, decide (s.reg reg1 &&& s.reg reg2 = 0), (s.reg reg1 &&& s.reg reg2).msb⟩) ∧
  (ReadsRR .or .or ∧ ∀ (reg1 reg2 : Reg) (s : State), Stores (.or reg1 reg2) s reg1 (s.reg reg1 ||| s.reg reg2)
    ⟨false, false, decide (s.reg reg1 = 0 ∧ s.reg reg2 = 0), (s.reg reg1 ||| s.reg reg2).msb⟩) ∧
  (ReadsRR .xor .xor ∧ ∀ (reg1 reg2 : Reg) (s : State), Stores (.xor reg1 reg2) s reg1 (s.reg reg1 ^^^ s.reg reg2)
    ⟨false, false, decide (s.reg reg1 = s.reg reg2), (s.reg reg1 ^^^ s.reg reg2).msb⟩)

/-- SHL (42_alu.md R153): `dest * 2^src` with the whole 16-bit count, though the model never forms the power. The
roles of the operands and the unreduced count are the spec's decisions D3 and D4 (log 3, 4). -/
def Obligations.ShlStoresTheMathematicalShift : Prop :=
  ReadsRR .shl .shl ∧ ∀ (reg1 reg2 : Reg) (s : State),
    Stores (.shl reg1 reg2) s reg1 (BitVec.ofNat 16 ((s.reg reg1).toNat * 2 ^ (s.reg reg2).toNat))
      ⟨false, decide ((s.reg reg1).toNat * 2 ^ (s.reg reg2).toNat > 0xFFFF),
        decide ((s.reg reg1).toNat * 2 ^ (s.reg reg2).toNat % 65536 = 0),
        (BitVec.ofNat 16 ((s.reg reg1).toNat * 2 ^ (s.reg reg2).toNat)).msb⟩

/-- SHRA (42_alu.md R154): `sext_16(dest) div 2^src`, floor division, with the whole 16-bit count; carry and sign are
bit 15 of `dest`. The signed reading, the roles, the unreduced count and the bits of a negative quotient are the spec's
decisions D2, D3, D4 and D14 (log 2, 3, 4, 14). -/
def Obligations.ShraStoresTheFlooredQuotient : Prop :=
  ReadsRR .shra .shra ∧ ∀ (reg1 reg2 : Reg) (s : State),
    Stores (.shra reg1 reg2) s reg1 (BitVec.ofInt 16 (Int.fdiv (s.reg reg1).toInt (2 ^ (s.reg reg2).toNat)))
      ⟨false, (s.reg reg1).msb, decide (Int.fdiv (s.reg reg1).toInt (2 ^ (s.reg reg2).toNat) = 0), (s.reg reg1).msb⟩

/-- SHRL (42_alu.md R155): `dest div 2^src` with the whole 16-bit count; carry is always false. The roles and the
unreduced count are the spec's decisions D3 and D4 (log 3, 4). -/
def Obligations.ShrlStoresTheUnsignedQuotient : Prop :=
  ReadsRR .shrl .shrl ∧ ∀ (reg1 reg2 : Reg) (s : State),
    Stores (.shrl reg1 reg2) s reg1 (BitVec.ofNat 16 ((s.reg reg1).toNat / 2 ^ (s.reg reg2).toNat))
      ⟨false, false, decide ((s.reg reg1).toNat / 2 ^ (s.reg reg2).toNat = 0),
        decide (0x8000 ≤ (s.reg reg1).toNat / 2 ^ (s.reg reg2).toNat)⟩

/-- CMP (42_alu.md R156): nothing is stored, and the flags are those of SUB with the same operands. That V and S are
read from a negative difference in two's complement is the spec's decision D14 (log 14). -/
def Obligations.CmpSetsTheFlagsOfSub : Prop :=
  ReadsRR .cmp .cmp ∧ ∀ (reg1 reg2 : Reg) (s : State),
    Tests (.cmp reg1 reg2) s
      ⟨(!(s.reg reg1).msb && (s.reg reg2).msb && (s.reg reg1 - s.reg reg2).msb) ||
          ((s.reg reg1).msb && !(s.reg reg2).msb && !(s.reg reg1 - s.reg reg2).msb),
        decide ((s.reg reg1).toNat < (s.reg reg2).toNat),
        decide (s.reg reg1 = s.reg reg2), (s.reg reg1 - s.reg reg2).msb⟩ ∧
    ∃ t u, exec (.cmp reg1 reg2) s = .next t ∧ exec (.sub reg1 reg2) s = .next u ∧ t.flags = u.flags

/-- TST (42_alu.md R157): nothing is stored, and the flags are those of AND. That TST is AND is the spec's decision
D3 (log 3). -/
def Obligations.TstSetsTheFlagsOfAnd : Prop :=
  ReadsRR .tst .tst ∧ ∀ (reg1 reg2 : Reg) (s : State),
    Tests (.tst reg1 reg2) s
      ⟨false, false, decide (s.reg reg1 &&& s.reg reg2 = 0), (s.reg reg1).msb && (s.reg reg2).msb⟩

/-- The overflow flag (42_alu.md R142): after ADD, SUB and CMP it is exactly two's-complement signed overflow, and
after the other nine arithmetic opcodes it is false. After a SUB or CMP that borrows it is read from bit 15 of a
negative result, the spec's decision D14 (log 14). -/
def Obligations.OverflowFlagIsSignedOverflow : Prop :=
  (∀ (reg1 reg2 : Reg) (s : State), ∃ t, exec (.add reg1 reg2) s = .next t ∧
    (t.flags.overflow = true ↔ (s.reg reg1).toInt + (s.reg reg2).toInt < -32768 ∨
      (s.reg reg1).toInt + (s.reg reg2).toInt > 32767)) ∧
  (∀ (reg1 reg2 : Reg) (s : State), ∃ t u, exec (.sub reg1 reg2) s = .next t ∧ exec (.cmp reg1 reg2) s = .next u ∧
    (t.flags.overflow = true ↔ (s.reg reg1).toInt - (s.reg reg2).toInt < -32768 ∨
      (s.reg reg1).toInt - (s.reg reg2).toInt > 32767) ∧ u.flags.overflow = t.flags.overflow) ∧
  (∀ (i : Instr) (s t : State), i.mnemonic ∈ arithmetic → i.mnemonic ∉ [.add, .sub, .cmp] → exec i s = .next t →
    t.flags.overflow = false)

/-- After `CMP a b` the ten comparison jumps decide by the unsigned and the signed order of `a` and `b`
(44_control_flow.md R199), which no single formula of either file says. The signed orders rest on the spec's decision
D14 on the bits of a negative difference (log 14). -/
def Obligations.JumpsAfterCmpDecideTheOrderings : Prop :=
  ∀ (reg1 reg2 : Reg) (addr : Word) (s : State), ∃ t, exec (.cmp reg1 reg2) s = .next t ∧
    GoesTo (.jeq addr) t (if s.reg reg1 = s.reg reg2 then addr else t.pc + 4) ∧
    GoesTo (.jne addr) t (if s.reg reg1 ≠ s.reg reg2 then addr else t.pc + 4) ∧
    GoesTo (.jb addr) t (if (s.reg reg1).toNat < (s.reg reg2).toNat then addr else t.pc + 4) ∧
    GoesTo (.jbe addr) t (if (s.reg reg1).toNat ≤ (s.reg reg2).toNat then addr else t.pc + 4) ∧
    GoesTo (.ja addr) t (if (s.reg reg1).toNat > (s.reg reg2).toNat then addr else t.pc + 4) ∧
    GoesTo (.jae addr) t (if (s.reg reg1).toNat ≥ (s.reg reg2).toNat then addr else t.pc + 4) ∧
    GoesTo (.jl addr) t (if (s.reg reg1).toInt < (s.reg reg2).toInt then addr else t.pc + 4) ∧
    GoesTo (.jle addr) t (if (s.reg reg1).toInt ≤ (s.reg reg2).toInt then addr else t.pc + 4) ∧
    GoesTo (.jg addr) t (if (s.reg reg1).toInt > (s.reg reg2).toInt then addr else t.pc + 4) ∧
    GoesTo (.jge addr) t (if (s.reg reg1).toInt ≥ (s.reg reg2).toInt then addr else t.pc + 4)

/-! ### Devices -/

/-- INPUT (43_io_timing_rnd.md R171): 1 if the port answers that the input `src` is active, else 0; the answer is
used up, whichever it is. That the id is the whole `src` is the spec's decision D18 (log 18), and that an answer is
used up is the model's own bookkeeping (`draws`, log 23). -/
def Obligations.InputStoresThePortAnswer : Prop :=
  ReadsRR .input .input ∧ ∀ reg1 reg2 s, ∃ t, exec (.input reg1 reg2) s = .next t ∧
    t.reg reg1 = (if s.inputActive (s.reg reg2) then 1 else 0) ∧
    SameRegsBut reg1 s t ∧ SameMemory s t ∧ t.color = s.color ∧ t.tref = s.tref ∧ t.haltRequest = s.haltRequest ∧
    t.pixels = s.pixels ∧ t.clock = s.clock ∧ t.draws = s.draws + 1 ∧ Ends (s.pc + 4) t

/-- COLOR (43_io_timing_rnd.md R172).
Where `pc + 4` passes 0xFFFF it wraps, the spec's decision D7 (log 7). -/
def Obligations.ColorKeepsTheLowByte : Prop :=
  ReadsR .color .color ∧ ∀ reg1 s, ∃ t, exec (.color reg1) s = .next t ∧
    t.color = (s.reg reg1 &&& 0x00FF#16).setWidth 8 ∧
    SameRegs s t ∧ SameMemory s t ∧ t.tref = s.tref ∧ t.haltRequest = s.haltRequest ∧ t.pixels = s.pixels ∧
    t.clock = s.clock ∧ t.draws = s.draws ∧ Ends (s.pc + 4) t

/-- PIXEL (43_io_timing_rnd.md R173): the event `(dest, src, color)` is appended, whatever the coordinates; that it is
emitted unchanged outside the grid is the spec's decision D15 (log 15). -/
def Obligations.PixelAppendsItsEvent : Prop :=
  ReadsRR .pixel .pixel ∧ ∀ reg1 reg2 s, ∃ t, exec (.pixel reg1 reg2) s = .next t ∧
    t.pixels = s.pixels ++ [⟨s.reg reg1, s.reg reg2, s.color⟩] ∧ SameRegs s t ∧ SameMemory s t ∧ t.color = s.color ∧
    t.tref = s.tref ∧ t.haltRequest = s.haltRequest ∧ t.clock = s.clock ∧ t.draws = s.draws ∧ Ends (s.pc + 4) t

/-- TIME (43_io_timing_rnd.md R174): the clock port's answer less `tref`, modulo 65536. `nowMillis` is that answer as
log 27 has it, and `clock` and `draws` are the model's own bookkeeping (log 23). -/
def Obligations.TimeStoresTheElapsedMilliseconds : Prop :=
  ReadsR .time .time ∧ ∀ reg1 s, ∃ t, exec (.time reg1) s = .next t ∧
    t.reg reg1 = BitVec.ofInt 16 (s.nowMillis.toNat - s.tref.toNat) ∧ SameRegsBut reg1 s t ∧ SameMemory s t ∧
    t.color = s.color ∧ t.tref = s.tref ∧ t.haltRequest = s.haltRequest ∧ t.pixels = s.pixels ∧
    t.clock = s.nowMillis ∧ t.draws = s.draws + 1 ∧ Ends (s.pc + 4) t

/-- TIMERST (43_io_timing_rnd.md R175): `tref` becomes the clock port's answer. `nowMillis` is that answer as log 27
has it, and `clock` and `draws` are the model's own bookkeeping (log 23). -/
def Obligations.TimerstSetsTheReference : Prop :=
  ReadsZ .timerst .timerst ∧ ∀ s, ∃ t, exec .timerst s = .next t ∧ t.tref = s.nowMillis ∧ SameRegs s t ∧
    SameMemory s t ∧ t.color = s.color ∧ t.haltRequest = s.haltRequest ∧ t.pixels = s.pixels ∧
    t.clock = s.nowMillis ∧ t.draws = s.draws + 1 ∧ Ends (s.pc + 4) t

/-- RND (43_io_timing_rnd.md R176): the random port's answer, a free value (the spec's decision D17, log 17). `draws` is
the model's own bookkeeping (log 23). -/
def Obligations.RndStoresTheDraw : Prop :=
  ReadsR .rnd .rnd ∧ ∀ reg1 s, ∃ t, exec (.rnd reg1) s = .next t ∧ t.reg reg1 = s.randomDraw ∧ SameRegsBut reg1 s t ∧
    SameMemory s t ∧ t.color = s.color ∧ t.tref = s.tref ∧ t.haltRequest = s.haltRequest ∧ t.pixels = s.pixels ∧
    t.clock = s.clock ∧ t.draws = s.draws + 1 ∧ Ends (s.pc + 4) t

/-- The clock port is monotonic (60_exceptions.md R219): no answer is below an earlier one, whatever instructions and
loads run in between, and the answer a step reads is the one later answers are measured against. `clock` is the
model's own field and `nowMillis` its reading of the rule (log 23, 27). -/
def Obligations.ClockNeverRunsBackwards : Prop :=
  (∀ s t : State, step s = .next t → s.clock ≤ t.clock ∧ s.clock ≤ s.nowMillis ∧ t.clock ≤ t.nowMillis) ∧
  (∀ (s t : State) (image : List Byte), s.load image = some t → s.nowMillis = t.clock) ∧
  (∀ (s t : State) (reg1 : Reg), exec (.time reg1) s = .next t ∨ exec .timerst s = .next t → s.nowMillis = t.clock)

/-- The display's contract (60_exceptions.md R218): one more event changes the grid only at its own coordinate, where
a later event replaces the earlier colour, and not at all outside 256 by 192, the spec's decision D15 (log 15). -/
def Obligations.LaterEventReplacesTheColour : Prop :=
  ∀ (events : List PixelEvent) (e : PixelEvent) (x y : Word),
    shownAt x y (events ++ [e]) =
      if e.px = x ∧ e.py = y ∧ x.toNat ≤ 255 ∧ y.toNat ≤ 191 then some e.c else shownAt x y events

/-! ### Jumps -/

/-- JMP (44_control_flow.md R183). -/
def Obligations.JmpGoesToTheRegister : Prop :=
  ReadsR .jmp .jmp ∧ ∀ reg1 s, GoesTo (.jmp reg1) s (s.reg reg1)

/-- JMPI (44_control_flow.md R184). -/
def Obligations.JmpiGoesToTheAddress : Prop :=
  ReadsA .jmpi .jmpi ∧ ∀ addr s, GoesTo (.jmpi addr) s addr

/-- The jumps on one flag: JEQ, JNE, JAE, JB, JO, JNO, JS, JNS (44_control_flow.md R185, R186, R190, R193, R195 to
R198).
Where `pc + 4` passes 0xFFFF it wraps, the spec's decision D7 (log 7). -/
def Obligations.SingleFlagJumpsFollowTheirFlag : Prop :=
  ConditionalJump .jeq .jeq (fun f => f.zero = true) ∧ ConditionalJump .jne .jne (fun f => f.zero = false) ∧
  ConditionalJump .jae .jae (fun f => f.carry = false) ∧ ConditionalJump .jb .jb (fun f => f.carry = true) ∧
  ConditionalJump .jo .jo (fun f => f.overflow = true) ∧ ConditionalJump .jno .jno (fun f => f.overflow = false) ∧
  ConditionalJump .js .js (fun f => f.sign = true) ∧ ConditionalJump .jns .jns (fun f => f.sign = false)

/-- The jumps on several flags: JG, JGE, JA, JL, JLE, JBE (44_control_flow.md R187, R188, R189, R191, R192, R194).
Where `pc + 4` passes 0xFFFF it wraps, the spec's decision D7 (log 7). -/
def Obligations.ComparisonJumpsFollowTheirFlags : Prop :=
  ConditionalJump .jg .jg (fun f => f.zero = false ∧ f.sign = f.overflow) ∧
  ConditionalJump .jge .jge (fun f => f.sign = f.overflow) ∧
  ConditionalJump .ja .ja (fun f => f.carry = false ∧ f.zero = false) ∧
  ConditionalJump .jl .jl (fun f => f.sign ≠ f.overflow) ∧
  ConditionalJump .jle .jle (fun f => f.sign ≠ f.overflow ∨ f.zero = true) ∧
  ConditionalJump .jbe .jbe (fun f => f.carry = true ∨ f.zero = true)

/-- In how many of the 16 flag combinations each conditional jump is taken (44_control_flow.md R185 to R198;
95_test_vectors.md section 3, last row). -/
def Obligations.TakenCountsOfTheTruthTable : Prop :=
  [condJeq, condJne, condJg, condJge, condJa, condJae, condJl, condJle, condJb, condJbe, condJo, condJno, condJs,
    condJns].map (fun c => allFlags.countP c) = [8, 8, 4, 8, 4, 8, 8, 12, 8, 12, 8, 8, 8, 8]

/-! ### NOP and whole-machine rules -/

/-- NOP (45_nop_unknown.md R200).
Where `pc + 4` passes 0xFFFF it wraps, the spec's decision D7 (log 7). -/
def Obligations.NopOnlyAdvances : Prop :=
  ReadsZ .nop .nop ∧ ∀ s, ∃ t, exec .nop s = .next t ∧ Ends (s.pc + 4) t ∧ SameRegs s t ∧ SameMemory s t ∧
    SameDevices s t

/-- The flags live for one instruction (10_state.md R30, R31): every instruction writes all four, so the flags after
never depend on the flags before; a non-arithmetic one clears them; and an instruction that is no conditional jump
does the same whatever the flags before were. -/
def Obligations.FlagsLiveForOneInstruction : Prop :=
  ∀ (i : Instr) (s t : State) (f : Flags), exec i s = .next t →
    (∃ u, exec i { s with flags := f } = .next u ∧ u.flags = t.flags ∧
      (i.mnemonic ∉ conditionalJumps → u = t)) ∧
    (i.mnemonic ∉ arithmetic → t.flags = ⟨false, false, false, false⟩)

/-- The next pointer (10_state.md R26, R27): always a multiple of 4, whatever state the instruction ran in, and
`pc + 4` with its low bits cleared unless the instruction is JMP, JMPI, CALL, RET or a conditional jump. -/
def Obligations.NextPointerIsAlignedAndDefaultsToPlusFour : Prop :=
  ∀ (i : Instr) (s t : State), exec i s = .next t → t.pc.toNat % 4 = 0 ∧
    (i.mnemonic ∉ [.jmp, .jmpi, .call, .ret] ++ conditionalJumps → t.pc = (s.pc + 4) &&& 0xFFFC#16)

/-- Which registers an instruction can change (10_state.md R24): `reg1` of the eighteen that name a destination, and
register 0 for PUSH, POP, CALL and RET. -/
def Obligations.OnlyListedRegistersAreWritten : Prop :=
  ∀ (i : Instr) (s t : State) (q : Reg), exec i s = .next t → t.reg q ≠ s.reg q →
    (i.mnemonic ∈ [.mov, .movi, .load, .loadi, .pop, .add, .sub, .mul, .div, .and, .or, .xor, .shl, .shra, .shrl,
        .input, .time, .rnd] ∧ q = (encode i).extractLsb' 16 4) ∨
    (i.mnemonic ∈ [.push, .pop, .call, .ret] ∧ q = sp)

/-- Only STOR, STORI, PUSH and CALL write memory (20_memory.md R57), and each at most the two bytes of the word at its
own address: `src`, `imm16`, and the new stack pointer of PUSH and CALL. -/
def Obligations.OnlyFourInstructionsWriteMemory : Prop :=
  ∀ (i : Instr) (s t : State), exec i s = .next t →
    (i.mnemonic ∉ [.stor, .stori, .push, .call] → SameMemory s t) ∧
    (∀ reg1 reg2, i = .stor reg1 reg2 → SameMemoryBut (s.reg reg2) s t) ∧
    (∀ reg1 imm16, i = .stori reg1 imm16 → SameMemoryBut imm16 s t) ∧
    (∀ reg1, i = .push reg1 → SameMemoryBut (s.reg sp + 2) s t) ∧
    (∀ addr, i = .call addr → SameMemoryBut (s.reg sp + 2) s t)

/-- What each device-facing piece of state is written by (10_state.md R32, R33, R37): `color` by COLOR, `tref` by
TIMERST, the event stream by PIXEL, which only ever grows; the ports answer only INPUT, TIME, TIMERST and RND; no
instruction touches the halt request (60_exceptions.md R222). `draws` and `clock` are the model's own bookkeeping
(log 23). -/
def Obligations.DeviceStateHasItsOwnWriters : Prop :=
  ∀ (i : Instr) (s t : State), exec i s = .next t →
    (i.mnemonic ≠ .color → t.color = s.color) ∧ (i.mnemonic ≠ .timerst → t.tref = s.tref) ∧
    (i.mnemonic ≠ .pixel → t.pixels = s.pixels) ∧ s.pixels <+: t.pixels ∧
    (i.mnemonic ∉ [.input, .time, .timerst, .rnd] → t.draws = s.draws) ∧
    (i.mnemonic ∉ [.time, .timerst] → t.clock = s.clock) ∧ t.haltRequest = s.haltRequest

/-! ### Registers and reset -/

/-- No register is hardwired, register 0 included: a register reads what was last written to it, and a write changes
no other (10_state.md R20, R22). -/
def Obligations.RegistersReadWhatWasLastWritten : Prop :=
  ∀ (s : State) (r q : Reg) (v : Word), (s.setReg r v).reg r = v ∧ (q ≠ r → (s.setReg r v).reg q = s.reg q)

/-- What reset leaves. The values of registers, pointer, flags, colour and memory fill are choices of the spec (D11,
D12; log 11, 12), and so is that `tref` is the clock's answer at load (D16, log 16); the halt request is clear
(70_reset_and_hazards.md R232 to R237). That no event has been emitted is the model's own choice (log 24), and that all
of memory is fill is its choice of the empty image for the reset state (log 25). -/
def Obligations.ResetLeavesTheDecidedValues : Prop :=
  (∀ r, State.reset.reg r = 0x0000#16) ∧ State.reset.pc = 0x0000#16 ∧
    State.reset.flags = ⟨false, false, false, false⟩ ∧ State.reset.color = 0x00#8 ∧
    (∀ a, State.reset.byteAt a = 0x00#8) ∧ State.reset.tref = State.reset.clock ∧ State.reset.haltRequest = false ∧
    State.reset.pixels = []

/-- Loading an image (70_reset_and_hazards.md R230, R231, 20_memory.md R60): there is a load exactly of the images of
at most 65536 bytes; byte `k` of the image lies at address `k` and the fill (D11, log 11) beyond it; no register,
flag, pointer, colour or halt request survives; `tref` is the clock's answer at load (D16, log 16). -/
def Obligations.LoadPlacesTheImageAndResets : Prop :=
  ∀ (s : State) (image : List Byte),
    (image.length > 65536 → s.load image = none) ∧
    (image.length ≤ 65536 → ∃ t, s.load image = some t ∧
      (∀ a : Word, t.byteAt a = if h : a.toNat < image.length then image[a.toNat] else params.resetMemFill) ∧
      (∀ r, t.reg r = params.resetRegs) ∧ t.pc = params.resetPc &&& 0xFFFC#16 ∧
      t.flags = ⟨false, false, false, false⟩ ∧ t.color = params.resetColor ∧ t.haltRequest = false ∧
      t.tref = s.nowMillis ∧ t.pixels = s.pixels)

/-! ### Invariants -/

/-- Reset meets the invariant. -/
def Obligations.ResetMeetsTheInvariant : Prop := State.reset.Inv

/-- Every step keeps the invariant: the pointer stays a multiple of 4 (10_state.md R25), the memory stays canonical,
and the timer reference stays no later than the clock (60_exceptions.md R219). -/
def Obligations.StepKeepsTheInvariant : Prop :=
  ∀ s t : State, s.Inv → step s = .next t → t.Inv

/-- In every state the machine can be in (steps, loads, halts and resumptions in any order), the invariant holds and
the next step completes; so every fetch is at a multiple of 4 and never passes 0xFFFF (20_memory.md R53, R55). -/
def Obligations.ReachableStatesMeetTheInvariantAndRunOn : Prop :=
  ∀ s : State, Reachable s → s.Inv ∧ s.pc.toNat + 3 ≤ 0xFFFF ∧ ∃ t, step s = .next t

end
end

