-- ==== Sys2Proof/Machine/Assembler.lean ====
section
/-! DEFINITION. From assembly source to a binary image: the supporting rules 30_encoding.md R100 to R112. They are
not part of the hardware block (00_scope.md R4); they say which images the host has to load. Text is a list of lines,
each a list of characters. What the rules leave open is chosen as log 21 says. -/
namespace Sys2Proof.Machine

/-! ### Names -/

/-- The spelling of each mnemonic, upper case only (30_encoding.md R101, D21, log 21). -/
def spelling : Mnemonic → List Char
  | .nop => ['N', 'O', 'P']
  | .input => ['I', 'N', 'P', 'U', 'T']
  | .call => ['C', 'A', 'L', 'L']
  | .ret => ['R', 'E', 'T']
  | .load => ['L', 'O', 'A', 'D']
  | .loadi => ['L', 'O', 'A', 'D', 'I']
  | .mov => ['M', 'O', 'V']
  | .movi => ['M', 'O', 'V', 'I']
  | .push => ['P', 'U', 'S', 'H']
  | .pop => ['P', 'O', 'P']
  | .add => ['A', 'D', 'D']
  | .sub => ['S', 'U', 'B']
  | .mul => ['M', 'U', 'L']
  | .div => ['D', 'I', 'V']
  | .and => ['A', 'N', 'D']
  | .or => ['O', 'R']
  | .xor => ['X', 'O', 'R']
  | .shl => ['S', 'H', 'L']
  | .shra => ['S', 'H', 'R', 'A']
  | .shrl => ['S', 'H', 'R', 'L']
  | .cmp => ['C', 'M', 'P']
  | .tst => ['T', 'S', 'T']
  | .color => ['C', 'O', 'L', 'O', 'R']
  | .pixel => ['P', 'I', 'X', 'E', 'L']
  | .stor => ['S', 'T', 'O', 'R']
  | .stori => ['S', 'T', 'O', 'R', 'I']
  | .time => ['T', 'I', 'M', 'E']
  | .timerst => ['T', 'I', 'M', 'E', 'R', 'S', 'T']
  | .rnd => ['R', 'N', 'D']
  | .jmp => ['J', 'M', 'P']
  | .jmpi => ['J', 'M', 'P', 'I']
  | .jeq => ['J', 'E', 'Q']
  | .jne => ['J', 'N', 'E']
  | .jg => ['J', 'G']
  | .jge => ['J', 'G', 'E']
  | .ja => ['J', 'A']
  | .jae => ['J', 'A', 'E']
  | .jl => ['J', 'L']
  | .jle => ['J', 'L', 'E']
  | .jb => ['J', 'B']
  | .jbe => ['J', 'B', 'E']
  | .jo => ['J', 'O']
  | .jno => ['J', 'N', 'O']
  | .js => ['J', 'S']
  | .jns => ['J', 'N', 'S']

/-- The mnemonic a token spells. -/
def mnemonicNamed (t : List Char) : Option Mnemonic := Mnemonic.all.find? fun m => spelling m == t

/-- The aliases of the registers, in the order of their indices (30_encoding.md R104, 90_conflicts.md C3). -/
def registerAliases : List (List Char) :=
  [['S', 'P'], ['F', 'P'], ['A'], ['B'], ['C'], ['D'], ['E'], ['F'], ['G'], ['H'], ['I'], ['J'], ['K'], ['L'], ['M'], ['N']]

/-- The plain names R0 to R15 (30_encoding.md R104). -/
def plainRegisterName (r : Nat) : List Char :=
  if r < 10 then ['R', Char.ofNat (48 + r)] else ['R', '1', Char.ofNat (38 + r)]

/-- The register a token names, by either scheme (30_encoding.md R104). -/
def registerNamed (t : List Char) : Option Nat :=
  match registerAliases.idxOf? t with
  | some r => some r
  | none => (List.range 16).find? fun r => plainRegisterName r == t

/-! ### Tokens (30_encoding.md R100 to R103) -/

/-- The token classes of 30_encoding.md R100. -/
inductive Token where
  | opcode (m : Mnemonic)
  | register (index : Nat)
  | data (bytes : List Byte)
  | labelDecl (name : List Char)
  | labelRef (name : List Char)
  | unknown (text : List Char)
  deriving DecidableEq, Repr

/-- Whitespace within a line: space, tab and carriage return. 30_encoding.md R100 does not say which characters are
whitespace, so this is a DESIGN CHOICE (log 21): a form feed, for one, belongs to a token. -/
def isBlank (c : Char) : Bool := c = ' ' || c = '\t' || c = '\r'

/-- Splits at blanks; `word` is the token read so far. -/
def splitBlanks (word : List Char) : List Char → List (List Char)
  | [] => if word = [] then [] else [word]
  | c :: rest =>
    if isBlank c then (if word = [] then [] else [word]) ++ splitBlanks [] rest
    else splitBlanks (word ++ [c]) rest

/-- The value of a hex digit of either case. -/
def hexDigit (c : Char) : Option Nat :=
  if '0' ≤ c ∧ c ≤ '9' then some (c.toNat - 48)
  else if 'a' ≤ c ∧ c ≤ 'f' then some (c.toNat - 87)
  else if 'A' ≤ c ∧ c ≤ 'F' then some (c.toNat - 55)
  else none

/-- Pairs of nibbles as bytes, the first nibble the high one. -/
def packNibbles : List Nat → List Byte
  | hi :: lo :: rest => BitVec.ofNat 8 (16 * hi + lo) :: packNibbles rest
  | _ => []

/-- A numeric literal as its bytes: "0x" and hex digits, odd lengths padded with a leading zero nibble
(30_encoding.md R102). -/
def literalBytes : List Char → Option (List Byte)
  | '0' :: 'x' :: d :: ds =>
    ((d :: ds).mapM hexDigit).map fun ns => packNibbles (if ns.length % 2 = 1 then 0 :: ns else ns)
  | _ => none

/-- The number a literal's bytes stand for, big-endian. -/
def literalValue (bytes : List Byte) : Nat := bytes.foldl (fun n b => 256 * n + b.toNat) 0

/-- A letter or the underscore. -/
def isIdentStart (c : Char) : Bool := ('a' ≤ c && c ≤ 'z') || ('A' ≤ c && c ≤ 'Z') || c = '_'

/-- A label identifier (30_encoding.md R103). -/
def isIdent : List Char → Bool
  | [] => false
  | c :: cs => isIdentStart c && cs.all fun d => isIdentStart d || ('0' ≤ d && d ≤ '9')

/-- The class of a token. A register name is a register token wherever it appears (30_encoding.md R103). -/
def classify (t : List Char) : Token :=
  match mnemonicNamed t, registerNamed t, literalBytes t with
  | some m, _, _ => .opcode m
  | none, some r, _ => .register r
  | none, none, some bytes => .data bytes
  | none, none, none =>
    if isIdent t then .labelRef t
    else if t.getLast? = some ':' && isIdent t.dropLast then .labelDecl t.dropLast
    else .unknown t

/-- The tokens of a line, its comment discarded (30_encoding.md R100). -/
def tokenize (line : List Char) : List Token :=
  (splitBlanks [] (line.takeWhile (· ≠ ';'))).map classify

/-! ### Lines (30_encoding.md R101, R105) -/

/-- A parsed line. -/
inductive SourceLine where
  | blank
  | instr (l : InstrLine)
  | data (bytes : List Byte)
  | label (name : List Char)
  deriving DecidableEq, Repr

/-- The error a token is wherever it stands among other tokens: an unknown token, and a label declaration, which has to
stand alone on its line (30_encoding.md R103, R110). -/
def Token.error? : Token → Option AsmError
  | .unknown _ => some .unrecognizedToken
  | .labelDecl _ => some .invalidLabelDeclarationPosition
  | .opcode _ | .register _ | .data _ | .labelRef _ => none

/-- A token in an operand's place. An identifier there that is no register name is a label reference, also when it
spells a mnemonic (30_encoding.md R103). -/
def operandOf : Token → Operand
  | .register r => .reg r
  | .data bytes => .literal (literalValue bytes)
  | .labelRef name => .label name
  | .opcode m => .label (spelling m)
  | .labelDecl _ => .noOperand .invalidLabelDeclarationPosition
  | .unknown _ => .noOperand .unrecognizedToken

/-- A token of a data line (30_encoding.md R107). R101 makes any other token there an error without naming its class,
so its class is a DESIGN CHOICE (log 21). -/
def dataOf : Token → Except AsmError (List Byte)
  | .data bytes => .ok bytes
  | .opcode _ | .register _ | .labelRef _ => .error .invalidInstructionSyntax
  | .labelDecl _ => .error .invalidLabelDeclarationPosition
  | .unknown _ => .error .unrecognizedToken

/-- The errors among results, in order. -/
def errorsOf {ε α : Type} : List (Except ε α) → List ε
  | [] => []
  | .error e :: rest => e :: errorsOf rest
  | .ok _ :: rest => errorsOf rest

/-- The values among results, in order. -/
def valuesOf {ε α : Type} : List (Except ε α) → List α
  | [] => []
  | .ok v :: rest => v :: valuesOf rest
  | .error _ :: rest => valuesOf rest

/-- A line is decided by its leading token, and all its errors are listed; the operands of an instruction are checked
with every label taken as resolved (30_encoding.md R101, R105, R110). R101 calls a line led by a register or a label
reference an error without naming its class, so its class is a DESIGN CHOICE (log 21). -/
def parseLine : List Token → Except (List AsmError) SourceLine
  | [] => .ok .blank
  | [.labelDecl name] => .ok (.label name)
  | .opcode m :: rest =>
    match InstrLine.toInstr (fun _ => some 0) ⟨m, rest.map operandOf⟩ with
    | .ok _ => .ok (.instr ⟨m, rest.map operandOf⟩)
    | .error es => .error es
  | .data bytes :: rest =>
    match errorsOf (rest.map dataOf) with
    | [] => .ok (.data (bytes ++ (valuesOf (rest.map dataOf)).flatten))
    | e :: es => .error (e :: es)
  | .labelDecl _ :: rest => .error (.invalidLabelDeclarationPosition :: rest.filterMap Token.error?)
  | .register _ :: rest | .labelRef _ :: rest => .error (.invalidInstructionSyntax :: rest.filterMap Token.error?)
  | .unknown _ :: rest => .error (.unrecognizedToken :: rest.filterMap Token.error?)

/-! ### Layout and code (30_encoding.md R107 to R111) -/

/-- The zero bytes that follow `n` bytes of data up to the next multiple of 4 (30_encoding.md R107). -/
def padding (n : Nat) : Nat := (4 - n % 4) % 4

/-- How far a line moves the byte counter (30_encoding.md R108). -/
def SourceLine.size : SourceLine → Nat
  | .blank | .label _ => 0
  | .instr _ => 4
  | .data bytes => bytes.length + padding bytes.length

/-- Pass 1: the offset of every label declaration, in order (30_encoding.md R103, R108). -/
def labelOffsets (at_ : Nat) : List SourceLine → List (List Char × Nat)
  | [] => []
  | .label name :: rest => (name, at_) :: labelOffsets at_ rest
  | l :: rest => labelOffsets (at_ + l.size) rest

/-- Pass 2: the bytes of one line (30_encoding.md R109). -/
def SourceLine.emit (label : List Char → Option Word) : SourceLine → Except (List AsmError) (List Byte)
  | .blank | .label _ => .ok []
  | .instr l => (l.toInstr label).map fun i => bytesOfWord (encode i)
  | .data bytes => .ok (bytes ++ List.replicate (padding bytes.length) 0)

/-- One error for each declaration of a name declared before (30_encoding.md R103). -/
def duplicateErrors : List (List Char × Nat) → List AsmError
  | [] => []
  | (name, _) :: rest =>
    (rest.filter fun p => p.1 = name).take 1 |>.map (fun _ => .duplicateLabel) |>.append (duplicateErrors rest)

/-- The total length of the output as pass 1 lays it out, whether or not its labels resolve (30_encoding.md R108). -/
def totalSize (lines : List SourceLine) : Nat := (lines.map SourceLine.size).sum

/-- A label's value as the 2-byte address of 30_encoding.md R109. The one offset of an accepted image that no 2-byte
field holds is 65536, that of a label after the last byte of a full image: it is encoded as 0x0000 (DESIGN CHOICE,
log 21). -/
def addressOf (labels : List (List Char × Nat)) (name : List Char) : Option Word :=
  (labels.lookup name).map (BitVec.ofNat 16)

/-- The assembler: all syntax errors of all lines are accumulated; only without any are labels resolved and the
size checked, both of them; an image is produced only if the error list is empty (30_encoding.md R110, R111).
The order of the list is a DESIGN CHOICE (log 21): the errors of the lines in line order and then the duplicate
labels, or the unresolved references in line order and then the size. So is what a line with an error declares, which
is nothing: a label declaration that does not stand alone does not count against a later one of its name (log 21). -/
def assemble (source : List (List Char)) : Except (List AsmError) (List Byte) :=
  let parsed := source.map fun l => parseLine (tokenize l)
  let lines := valuesOf parsed
  let labels := labelOffsets 0 lines
  match (errorsOf parsed).flatten ++ duplicateErrors labels with
  | e :: es => .error (e :: es)
  | [] =>
    let code := lines.map (SourceLine.emit (addressOf labels))
    match (errorsOf code).flatten ++ (if totalSize lines ≤ 65536 then [] else [.outputTooLarge]) with
    | e :: es => .error (e :: es)
    | [] => .ok (valuesOf code).flatten

end Sys2Proof.Machine
end

