-- ==== Sys2Proof/Laws/Assembler.lean ====
section
/-! SUPPORT. The layout of pass 1 measures the bytes of pass 2, so the size check is about the image
(30_encoding.md R108 to R111). -/
namespace Sys2Proof.Machine

/-- A line that has bytes has as many as the layout gives it. -/
theorem SourceLine.emit_length {label : List Char → Option Word} {l : SourceLine} {bytes : List Byte}
    (h : l.emit label = .ok bytes) : bytes.length = l.size := by
  cases l with
  | blank => cases h; rfl
  | label name => cases h; rfl
  | data d => cases h; simp [SourceLine.size]
  | instr l =>
    simp only [SourceLine.emit] at h
    cases hi : l.toInstr label with
    | ok i => rw [hi] at h; cases h; rfl
    | error es => rw [hi] at h; cases h

/-- The code of lines without errors is as long as their layout. -/
theorem code_length {label : List Char → Option Word} (lines : List SourceLine)
    (h : errorsOf (lines.map (SourceLine.emit label)) = []) :
    (valuesOf (lines.map (SourceLine.emit label))).flatten.length = totalSize lines := by
  induction lines with
  | nil => rfl
  | cons l lines ih =>
    cases hl : l.emit label with
    | error e => simp [hl, errorsOf] at h
    | ok bytes =>
      have hs := SourceLine.emit_length hl
      simp only [List.map_cons, hl, errorsOf] at h
      have ih := ih h
      simp only [totalSize] at ih ⊢
      simp [hl, valuesOf, hs, ih]

/-- A source whose syntax errors and duplicate labels are none, but whose layout is too long, gets outputTooLarge,
whether or not its labels resolve (30_encoding.md R110, R111). -/
theorem assemble_tooLarge (source : List (List Char))
    (hs : errorsOf (source.map fun l => parseLine (tokenize l)) = [])
    (hd : duplicateErrors (labelOffsets 0 (valuesOf (source.map fun l => parseLine (tokenize l)))) = [])
    (hl : ¬ totalSize (valuesOf (source.map fun l => parseLine (tokenize l))) ≤ 65536) :
    ∃ es, assemble source = .error (es ++ [.outputTooLarge]) := by
  unfold assemble
  simp only [hs, hd, List.flatten_nil, List.append_nil, if_neg hl]
  split
  · next h => exact ⟨_, by rw [← h]⟩
  · next h => simp at h

end Sys2Proof.Machine
end

