-- ==== Sys2Proof/Laws/State.lean ====
section
/-! SUPPORT. One lemma per field per update of `State`, and what a register or a byte reads as after an update. -/
namespace Sys2Proof.Machine

variable (s : State)

/-! ### `setReg` -/

@[simp] theorem State.setReg_regs (r : Reg) (v : Word) : (s.setReg r v).regs = s.regs.set r.toNat v := rfl
@[simp] theorem State.setReg_pc (r : Reg) (v : Word) : (s.setReg r v).pc = s.pc := rfl
@[simp] theorem State.setReg_flags (r : Reg) (v : Word) : (s.setReg r v).flags = s.flags := rfl
@[simp] theorem State.setReg_color (r : Reg) (v : Word) : (s.setReg r v).color = s.color := rfl
@[simp] theorem State.setReg_tref (r : Reg) (v : Word) : (s.setReg r v).tref = s.tref := rfl
@[simp] theorem State.setReg_mem (r : Reg) (v : Word) : (s.setReg r v).mem = s.mem := rfl
@[simp] theorem State.setReg_haltRequest (r : Reg) (v : Word) : (s.setReg r v).haltRequest = s.haltRequest := rfl
@[simp] theorem State.setReg_pixels (r : Reg) (v : Word) : (s.setReg r v).pixels = s.pixels := rfl
@[simp] theorem State.setReg_clock (r : Reg) (v : Word) : (s.setReg r v).clock = s.clock := rfl
@[simp] theorem State.setReg_draws (r : Reg) (v : Word) : (s.setReg r v).draws = s.draws := rfl

/-! ### `setByte` -/

@[simp] theorem State.setByte_regs (a : Word) (b : Byte) : (s.setByte a b).regs = s.regs := rfl
@[simp] theorem State.setByte_pc (a : Word) (b : Byte) : (s.setByte a b).pc = s.pc := rfl
@[simp] theorem State.setByte_flags (a : Word) (b : Byte) : (s.setByte a b).flags = s.flags := rfl
@[simp] theorem State.setByte_color (a : Word) (b : Byte) : (s.setByte a b).color = s.color := rfl
@[simp] theorem State.setByte_tref (a : Word) (b : Byte) : (s.setByte a b).tref = s.tref := rfl
@[simp] theorem State.setByte_mem (a : Word) (b : Byte) : (s.setByte a b).mem = s.mem.write a.toNat b := rfl
@[simp] theorem State.setByte_haltRequest (a : Word) (b : Byte) : (s.setByte a b).haltRequest = s.haltRequest := rfl
@[simp] theorem State.setByte_pixels (a : Word) (b : Byte) : (s.setByte a b).pixels = s.pixels := rfl
@[simp] theorem State.setByte_clock (a : Word) (b : Byte) : (s.setByte a b).clock = s.clock := rfl
@[simp] theorem State.setByte_draws (a : Word) (b : Byte) : (s.setByte a b).draws = s.draws := rfl

/-! ### `answered` -/

@[simp] theorem State.answered_regs : s.answered.regs = s.regs := rfl
@[simp] theorem State.answered_pc : s.answered.pc = s.pc := rfl
@[simp] theorem State.answered_flags : s.answered.flags = s.flags := rfl
@[simp] theorem State.answered_color : s.answered.color = s.color := rfl
@[simp] theorem State.answered_tref : s.answered.tref = s.tref := rfl
@[simp] theorem State.answered_mem : s.answered.mem = s.mem := rfl
@[simp] theorem State.answered_haltRequest : s.answered.haltRequest = s.haltRequest := rfl
@[simp] theorem State.answered_pixels : s.answered.pixels = s.pixels := rfl
@[simp] theorem State.answered_clock : s.answered.clock = s.clock := rfl
@[simp] theorem State.answered_draws : s.answered.draws = s.draws + 1 := rfl

/-! ### `clockRead` -/

@[simp] theorem State.clockRead_regs : s.clockRead.regs = s.regs := rfl
@[simp] theorem State.clockRead_pc : s.clockRead.pc = s.pc := rfl
@[simp] theorem State.clockRead_flags : s.clockRead.flags = s.flags := rfl
@[simp] theorem State.clockRead_color : s.clockRead.color = s.color := rfl
@[simp] theorem State.clockRead_tref : s.clockRead.tref = s.tref := rfl
@[simp] theorem State.clockRead_mem : s.clockRead.mem = s.mem := rfl
@[simp] theorem State.clockRead_haltRequest : s.clockRead.haltRequest = s.haltRequest := rfl
@[simp] theorem State.clockRead_pixels : s.clockRead.pixels = s.pixels := rfl
@[simp] theorem State.clockRead_clock : s.clockRead.clock = s.nowMillis := rfl
@[simp] theorem State.clockRead_draws : s.clockRead.draws = s.draws + 1 := rfl

/-! ### `emit` -/

@[simp] theorem State.emit_regs (e : PixelEvent) : (s.emit e).regs = s.regs := rfl
@[simp] theorem State.emit_pc (e : PixelEvent) : (s.emit e).pc = s.pc := rfl
@[simp] theorem State.emit_flags (e : PixelEvent) : (s.emit e).flags = s.flags := rfl
@[simp] theorem State.emit_color (e : PixelEvent) : (s.emit e).color = s.color := rfl
@[simp] theorem State.emit_tref (e : PixelEvent) : (s.emit e).tref = s.tref := rfl
@[simp] theorem State.emit_mem (e : PixelEvent) : (s.emit e).mem = s.mem := rfl
@[simp] theorem State.emit_haltRequest (e : PixelEvent) : (s.emit e).haltRequest = s.haltRequest := rfl
@[simp] theorem State.emit_pixels (e : PixelEvent) : (s.emit e).pixels = s.pixels ++ [e] := rfl
@[simp] theorem State.emit_clock (e : PixelEvent) : (s.emit e).clock = s.clock := rfl
@[simp] theorem State.emit_draws (e : PixelEvent) : (s.emit e).draws = s.draws := rfl

/-! ### `raiseHalt` -/

@[simp] theorem State.raiseHalt_regs : s.raiseHalt.regs = s.regs := rfl
@[simp] theorem State.raiseHalt_pc : s.raiseHalt.pc = s.pc := rfl
@[simp] theorem State.raiseHalt_flags : s.raiseHalt.flags = s.flags := rfl
@[simp] theorem State.raiseHalt_color : s.raiseHalt.color = s.color := rfl
@[simp] theorem State.raiseHalt_tref : s.raiseHalt.tref = s.tref := rfl
@[simp] theorem State.raiseHalt_mem : s.raiseHalt.mem = s.mem := rfl
@[simp] theorem State.raiseHalt_haltRequest : s.raiseHalt.haltRequest = true := rfl
@[simp] theorem State.raiseHalt_pixels : s.raiseHalt.pixels = s.pixels := rfl
@[simp] theorem State.raiseHalt_clock : s.raiseHalt.clock = s.clock := rfl
@[simp] theorem State.raiseHalt_draws : s.raiseHalt.draws = s.draws := rfl

/-! ### `callForMore` -/

@[simp] theorem State.callForMore_regs : s.callForMore.regs = s.regs := rfl
@[simp] theorem State.callForMore_pc : s.callForMore.pc = s.pc := rfl
@[simp] theorem State.callForMore_flags : s.callForMore.flags = s.flags := rfl
@[simp] theorem State.callForMore_color : s.callForMore.color = s.color := rfl
@[simp] theorem State.callForMore_tref : s.callForMore.tref = s.tref := rfl
@[simp] theorem State.callForMore_mem : s.callForMore.mem = s.mem := rfl
@[simp] theorem State.callForMore_haltRequest : s.callForMore.haltRequest = false := rfl
@[simp] theorem State.callForMore_pixels : s.callForMore.pixels = s.pixels := rfl
@[simp] theorem State.callForMore_clock : s.callForMore.clock = s.clock := rfl
@[simp] theorem State.callForMore_draws : s.callForMore.draws = s.draws := rfl

/-! ### Registers read after an update -/

@[simp] theorem State.reg_setReg_same (r : Reg) (v : Word) : (s.setReg r v).reg r = v := by
  simp [State.reg]

theorem State.reg_setReg_ne {r q : Reg} (h : q ≠ r) (v : Word) : (s.setReg r v).reg q = s.reg q := by
  have hn : ¬ r.toNat = q.toNat := fun e => h (BitVec.eq_of_toNat_eq e.symm)
  simp [State.reg, hn]

theorem State.reg_setReg (r q : Reg) (v : Word) : (s.setReg r v).reg q = if q = r then v else s.reg q := by
  split
  · next h => subst h; simp
  · next h => exact s.reg_setReg_ne h v

@[simp] theorem State.reg_setByte (q : Reg) (a : Word) (b : Byte) : (s.setByte a b).reg q = s.reg q := rfl
@[simp] theorem State.reg_answered (q : Reg) : s.answered.reg q = s.reg q := rfl
@[simp] theorem State.reg_clockRead (q : Reg) : s.clockRead.reg q = s.reg q := rfl
@[simp] theorem State.reg_emit (q : Reg) (e : PixelEvent) : (s.emit e).reg q = s.reg q := rfl

/-! ### Bytes read after an update that is not a store -/

@[simp] theorem State.byteAt_setReg (r : Reg) (v a : Word) : (s.setReg r v).byteAt a = s.byteAt a := rfl
@[simp] theorem State.byteAt_answered (a : Word) : s.answered.byteAt a = s.byteAt a := rfl
@[simp] theorem State.byteAt_clockRead (a : Word) : s.clockRead.byteAt a = s.byteAt a := rfl
@[simp] theorem State.byteAt_emit (e : PixelEvent) (a : Word) : (s.emit e).byteAt a = s.byteAt a := rfl

end Sys2Proof.Machine
end

