-- ==== Sys2Proof/Laws/Memory.lean ====
section
/-! SUPPORT. Memory: what a byte reads as after a write, for every list of cells, and that every memory operation
keeps the canonical form. -/
namespace Sys2Proof.Machine

/-! ### Reading after writing -/

theorem Memory.read_erase_same (m : Memory) (a : Nat) : Memory.read (m.erase a) a = memoryFill := by
  induction m with
  | nil => rfl
  | cons c m ih =>
    rcases c with ⟨k, b⟩
    by_cases h : k = a <;> simp_all [Memory.erase, Memory.read]

theorem Memory.read_erase_ne (m : Memory) {a k : Nat} (h : k ≠ a) : Memory.read (m.erase a) k = Memory.read m k := by
  induction m with
  | nil => rfl
  | cons c m ih =>
    rcases c with ⟨j, b⟩
    by_cases hj : j = a
    · subst hj
      simpa [Memory.erase, Memory.read, Ne.symm h] using ih
    · by_cases hk : j = k <;> simp_all [Memory.erase, Memory.read]

theorem Memory.read_insert (m : Memory) (a k : Nat) (v : Byte) (h : ∀ c ∈ m, c.1 ≠ a) :
    Memory.read (m.insert a v) k = if k = a then v else Memory.read m k := by
  induction m with
  | nil => simp [Memory.insert, Memory.read, eq_comm]
  | cons c m ih =>
    rcases c with ⟨j, b⟩
    have hj : j ≠ a := h (j, b) (by simp)
    have ih := ih fun c hc => h c (by simp [hc])
    by_cases hlt : a < j
    · simp only [Memory.insert, hlt, if_true, Memory.read, eq_comm]
    · simp only [Memory.insert, hlt, if_false, Memory.read, ih]
      by_cases hjk : j = k
      · simp [hjk, show k ≠ a from hjk ▸ hj]
      · simp [hjk]

theorem Memory.erase_no_addr (m : Memory) (a : Nat) : ∀ c ∈ m.erase a, c.1 ≠ a := by
  simp [Memory.erase]

/-- The basic law of memory: a write changes one byte. -/
theorem Memory.read_write (m : Memory) (a k : Nat) (v : Byte) :
    Memory.read (m.write a v) k = if k = a then v else Memory.read m k := by
  unfold Memory.write
  by_cases hv : v = memoryFill
  · by_cases hk : k = a
    · simp [hv, hk, Memory.read_erase_same]
    · simp [hv, hk, Memory.read_erase_ne m hk]
  · rw [if_neg hv, Memory.read_insert _ _ _ _ (m.erase_no_addr a)]
    by_cases hk : k = a
    · simp [hk]
    · simp [hk, Memory.read_erase_ne m hk]

/-- A byte after a one-byte write. -/
theorem State.byteAt_setByte (s : State) (a k : Word) (v : Byte) :
    (s.setByte a v).byteAt k = if k = a then v else s.byteAt k := by
  simp [State.byteAt, Memory.read_write, BitVec.toNat_inj]

@[simp] theorem State.byteAt_setByte_same (s : State) (a : Word) (v : Byte) : (s.setByte a v).byteAt a = v := by
  simp [State.byteAt_setByte]

/-! ### The canonical form -/

/-- The canonical form, said by its parts. -/
theorem Memory.wf_iff (m : Memory) :
    m.wf = true ↔ m.Pairwise (fun c d => c.1 < d.1) ∧ ∀ c ∈ m, c.1 < 65536 ∧ c.2 ≠ memoryFill := by
  simp [Memory.wf]

theorem Memory.mem_insert {m : Memory} {a : Nat} {v : Byte} {c : Host.Cell} (h : c ∈ m.insert a v) :
    c = (a, v) ∨ c ∈ m := by
  induction m with
  | nil => simpa [Memory.insert] using h
  | cons d m ih =>
    rcases d with ⟨j, b⟩
    by_cases hlt : a < j
    · simpa [Memory.insert, hlt] using h
    · simp only [Memory.insert, hlt, if_false, List.mem_cons] at h
      rcases h with h | h
      · simp [h]
      · rcases ih h with h | h <;> simp [h]

theorem Memory.insert_pairwise {m : Memory} {a : Nat} {v : Byte} (h : m.Pairwise fun c d => c.1 < d.1)
    (hne : ∀ c ∈ m, c.1 ≠ a) : (m.insert a v).Pairwise fun c d => c.1 < d.1 := by
  induction m with
  | nil => simp [Memory.insert]
  | cons d m ih =>
    rcases d with ⟨j, b⟩
    have hj : j ≠ a := hne (j, b) (by simp)
    rw [List.pairwise_cons] at h
    by_cases hlt : a < j
    · simp only [Memory.insert, hlt, if_true, List.pairwise_cons, List.mem_cons]
      refine ⟨fun c hc => ?_, h.1, h.2⟩
      rcases hc with rfl | hc
      · exact hlt
      · exact Nat.lt_trans hlt (h.1 c hc)
    · simp only [Memory.insert, hlt, if_false, List.pairwise_cons]
      refine ⟨fun c hc => ?_, ih h.2 fun c hc => hne c (by simp [hc])⟩
      rcases Memory.mem_insert hc with rfl | hc
      · show j < a
        omega
      · exact h.1 c hc

theorem Memory.erase_wf {m : Memory} (h : m.wf = true) (a : Nat) : (m.erase a).wf = true := by
  rw [Memory.wf_iff] at h ⊢
  exact ⟨h.1.filter _, fun c hc => h.2 c (List.mem_of_mem_filter hc)⟩

/-- A write below 65536 keeps the canonical form. -/
theorem Memory.write_wf {m : Memory} (h : m.wf = true) {a : Nat} (ha : a < 65536) (v : Byte) :
    (m.write a v).wf = true := by
  unfold Memory.write
  by_cases hv : v = memoryFill
  · simpa [hv] using Memory.erase_wf h a
  · have he := (Memory.wf_iff _).1 (Memory.erase_wf h a)
    rw [if_neg hv, Memory.wf_iff]
    refine ⟨Memory.insert_pairwise he.1 (m.erase_no_addr a), fun c hc => ?_⟩
    rcases Memory.mem_insert hc with rfl | hc
    · exact ⟨ha, hv⟩
    · exact he.2 c hc

theorem State.setByte_wf {s : State} (h : Memory.wf s.mem = true) (a : Word) (v : Byte) :
    Memory.wf (s.setByte a v).mem = true :=
  Memory.write_wf h a.isLt v

theorem State.placeWord_wf {s : State} (h : Memory.wf s.mem = true) (a : Word) (w : BitVec 32) :
    Memory.wf (s.placeWord a w).mem = true :=
  State.setByte_wf (State.setByte_wf (State.setByte_wf (State.setByte_wf h _ _) _ _) _ _) _ _

/-! ### The memory of an image -/

theorem Memory.ofImage_bounds {base : Nat} {image : List Byte} {c : Host.Cell} (h : c ∈ Memory.ofImage base image) :
    base ≤ c.1 ∧ c.1 < base + image.length ∧ c.2 ≠ memoryFill := by
  induction image generalizing base with
  | nil => simp [Memory.ofImage] at h
  | cons b image ih =>
    by_cases hb : b = memoryFill
    · simp only [Memory.ofImage, hb, if_true] at h
      have := ih h
      simp only [List.length_cons]
      exact ⟨by omega, by omega, this.2.2⟩
    · simp only [Memory.ofImage, hb, if_false, List.mem_cons] at h
      rcases h with rfl | h
      · simp [hb]
      · have := ih h
        simp only [List.length_cons]
        exact ⟨by omega, by omega, this.2.2⟩

theorem Memory.ofImage_pairwise (base : Nat) (image : List Byte) :
    (Memory.ofImage base image).Pairwise fun c d => c.1 < d.1 := by
  induction image generalizing base with
  | nil => simp [Memory.ofImage]
  | cons b image ih =>
    by_cases hb : b = memoryFill
    · simpa [Memory.ofImage, hb] using ih (base + 1)
    · simp only [Memory.ofImage, hb, if_false, List.pairwise_cons]
      exact ⟨fun c hc => (Memory.ofImage_bounds hc).1, ih (base + 1)⟩

theorem Memory.ofImage_wf {image : List Byte} (h : imageFits image = true) :
    (Memory.ofImage 0 image).wf = true := by
  simp only [imageFits, decide_eq_true_eq] at h
  rw [Memory.wf_iff]
  refine ⟨Memory.ofImage_pairwise 0 image, fun c hc => ?_⟩
  have := Memory.ofImage_bounds hc
  exact ⟨by omega, this.2.2⟩

theorem Memory.read_ofImage_below (base : Nat) (image : List Byte) {a : Nat} (h : a < base) :
    Memory.read (Memory.ofImage base image) a = memoryFill := by
  induction image generalizing base with
  | nil => rfl
  | cons b image ih =>
    by_cases hb : b = memoryFill
    · simpa [Memory.ofImage, hb] using ih (base + 1) (by omega)
    · have hne : base ≠ a := by omega
      simpa [Memory.ofImage, hb, Memory.read, hne] using ih (base + 1) (by omega)

theorem Memory.read_ofImage (base : Nat) (image : List Byte) (k : Nat) :
    Memory.read (Memory.ofImage base image) (base + k) = image.getD k memoryFill := by
  induction image generalizing base k with
  | nil => simp [Memory.ofImage, Memory.read]
  | cons b image ih =>
    cases k with
    | zero =>
      by_cases hb : b = memoryFill
      · simp [Memory.ofImage, hb, Memory.read_ofImage_below (base + 1) image (Nat.lt_succ_self base)]
      · simp [Memory.ofImage, hb, Memory.read]
    | succ k =>
      have hne : base ≠ base + (k + 1) := by omega
      have ih := ih (base + 1) k
      rw [show base + 1 + k = base + (k + 1) by omega] at ih
      by_cases hb : b = memoryFill
      · simpa [Memory.ofImage, hb] using ih
      · simpa [Memory.ofImage, hb, Memory.read, hne] using ih

end Sys2Proof.Machine
end

