-- ==== Sys2Proof/Laws/Ops.lean ====
section
/-! SUPPORT. One lemma per shared operation that says all it can do, at the parameters of Machine/Params.lean. -/
namespace Sys2Proof.Machine

/-! ### Data accesses -/

/-- At OOB = wrap the second byte is always at the next address modulo 65536 (20_memory.md R52, R56). -/
theorem secondByteAddr_eq (a : Word) : secondByteAddr a = some (a + 1) := by
  unfold secondByteAddr
  split
  · next h => subst h; rfl
  · rfl

theorem State.loadWord_eq (s : State) (a : Word) : s.loadWord a = some (s.byteAt a ++ s.byteAt (a + 1)) := by
  simp [State.loadWord, secondByteAddr_eq]

theorem State.storeWord_eq (s : State) (a v : Word) :
    s.storeWord a v = some ((s.setByte a (v.extractLsb' 8 8)).setByte (a + 1) (v.extractLsb' 0 8)) := by
  simp [State.storeWord, secondByteAddr_eq]

theorem State.pushWord_eq (s : State) (v : Word) :
    s.pushWord v = some (((s.setReg sp (s.reg sp + 2)).setByte (s.reg sp + 2) (v.extractLsb' 8 8)).setByte
      (s.reg sp + 2 + 1) (v.extractLsb' 0 8)) := by
  simp [State.pushWord, State.storeWord_eq]

@[simp] theorem orFault_some {α : Type} (v : α) (k : α → Answer) : orFault (some v) k = k v := rfl

/-- The two bytes of a word are that word (20_memory.md R51). -/
theorem highByte_append_lowByte (v : Word) : (v.extractLsb' 8 8 ++ v.extractLsb' 0 8 : Word) = v := by
  apply BitVec.eq_of_getElem_eq
  intro i hi
  simp only [BitVec.getElem_append, BitVec.getElem_extractLsb']
  split
  · simp [BitVec.getLsbD_eq_getElem (show i < 16 by omega)]
  · next h =>
    have : 8 + (i - 8) = i := by omega
    simp [this, BitVec.getLsbD_eq_getElem hi]

/-! ### The end of an instruction -/

theorem State.advance_eq (s : State) :
    s.advance = .next { s with pc := alignPc (s.pc + 4), flags := Flags.clear } := rfl

theorem State.redirect_eq (s : State) (target : Word) :
    s.redirect target = .next { s with pc := alignPc target, flags := Flags.clear } := rfl

theorem State.retire_eq (s : State) (next : Word) (f : Flags) :
    s.retire next f = .next { s with pc := alignPc next, flags := f } := rfl

/-- Aligning clears the remainder modulo 4 and no more (10_state.md R27). -/
theorem alignPc_toNat (t : Word) : (alignPc t).toNat = t.toNat - t.toNat % 4 := by
  have h : ∀ n : Fin 65536, n.val &&& 0xFFFC = n.val - n.val % 4 := by
    intro n
    have hn := n.isLt
    have e : n.val &&& 0xFFFC = (n.val / 4 % 2 ^ 14) * 4 := by
      apply Nat.eq_of_testBit_eq
      intro i
      rw [Nat.testBit_and, show (0xFFFC : Nat) = (2 ^ 14 - 1) * 2 ^ 2 by norm_num, show (4 : Nat) = 2 ^ 2 by norm_num,
        Nat.testBit_mul_two_pow, Nat.testBit_mul_two_pow, Nat.testBit_two_pow_sub_one, Nat.testBit_mod_two_pow,
        Nat.testBit_div_two_pow]
      by_cases h2 : 2 ≤ i
      · have : i - 2 + 2 = i := by omega
        simp [h2, this, Bool.and_comm]
      · simp [h2]
    omega
  simpa [alignPc] using h ⟨t.toNat, t.isLt⟩

theorem alignPc_aligned (t : Word) : (alignPc t).toNat % 4 = 0 := by
  rw [alignPc_toNat]
  omega

theorem alignPc_of_aligned {t : Word} (h : t.toNat % 4 = 0) : alignPc t = t :=
  BitVec.eq_of_toNat_eq (by rw [alignPc_toNat]; omega)

/-! ### Shapes of instructions -/

theorem State.loadInto_eq (s : State) (reg1 : Reg) (a : Word) :
    s.loadInto reg1 a = (s.setReg reg1 (s.byteAt a ++ s.byteAt (a + 1))).advance := by
  simp [State.loadInto, State.loadWord_eq]

theorem State.storeFrom_eq (s : State) (reg1 : Reg) (a : Word) :
    s.storeFrom reg1 a =
      ((s.setByte a ((s.reg reg1).extractLsb' 8 8)).setByte (a + 1) ((s.reg reg1).extractLsb' 0 8)).advance := by
  simp [State.storeFrom, State.storeWord_eq]

theorem State.popInto_eq (s : State) (reg1 : Reg) (v : Word) :
    s.popInto reg1 v = (s.setReg reg1 v).setReg sp ((s.setReg reg1 v).reg sp - 2) := rfl

theorem State.jumpIf_eq (s : State) (cond : Flags → Bool) (addr : Word) :
    s.jumpIf cond addr =
      .next { s with pc := alignPc (if cond s.flags then addr else s.pc + 4), flags := Flags.clear } := by
  unfold State.jumpIf
  split <;> rfl

/-- At PIXEL_RANGE = drop an event is emitted whatever the coordinates (43_io_timing_rnd.md R173). -/
theorem pixelEvent_eq (px py : Word) (c : Byte) : pixelEvent px py c = some ⟨px, py, c⟩ := rfl

/-! ### The clock port (60_exceptions.md R219) -/

theorem State.clock_le_nowMillis (s : State) : s.clock ≤ s.nowMillis := by
  unfold State.nowMillis
  split
  · assumption
  · exact BitVec.le_refl _

/-! ### The arithmetic opcodes -/

/-- Every operator but SHRA reads `dest` as unsigned (42_alu.md R141). -/
theorem destValue_unsigned {op : AluOp} (h : op ≠ .shra) (v : Word) : destValue op v = v.toNat := by
  cases op <;> first | rfl | exact absurd rfl h

theorem destValue_shra (v : Word) : destValue .shra v = v.toInt := rfl

/-- Every operator reads `src` as unsigned (42_alu.md R141). -/
theorem srcValue_unsigned (op : AluOp) (v : Word) : srcValue op v = v.toNat := by cases op <;> rfl

theorem shiftFactor_eq (src : Word) : shiftFactor src = 2 ^ min src.toNat 16 := rfl

theorem aluStored_of_ne_div {op : AluOp} (h : op ≠ .div) (dest src : Word) :
    aluStored op dest src = low16 (aluResult op dest src) := by
  simp [aluStored, h]

end Sys2Proof.Machine
end

