-- ==== Sys2Proof/Tests/Slice0.lean ====
section
/-! SUPPORT. Tests and witnesses. The expected value of a `test_` theorem comes from the spec: the identifier in its
docstring is that of a vector of 95_test_vectors.md, or the rule the word or value was written out from. A `witness_`
theorem meets the hypotheses of the statement it is named after. -/
namespace Sys2Proof.Tests
open Sys2Proof.Machine Sys2Proof.Statements

/-! ### Helpers -/

/-- Everything zero, no instruction placed. -/
def base : State where
  regs := Vector.replicate 16 0
  pc := 0
  flags := Flags.clear
  color := 0
  tref := 0
  mem := []
  haltRequest := false
  pixels := []
  clock := 0
  draws := 0

/-- `dest` in register 2 and `src` in register 3. -/
def ab (dest src : Word) : State := (base.setReg 2 dest).setReg 3 src

/-- At address 0x0010, with the given flags. -/
def at10 (f : Flags) : State := { base with pc := 0x0010#16, flags := f }

/-- Inside a subroutine called from 0x0010. -/
def inSub (hi lo : Byte) : State :=
  { ((base.setReg 0 0x2002#16).setByte 0x2002#16 hi).setByte 0x2003#16 lo with pc := 0x0040#16 }

/-- A view of the next state. -/
def after {α : Type} (a : Answer) (view : State → α) : Option α :=
  match a with
  | .next t => some (view t)
  | .fault _ => none
  | .refused _ => none

/-- A view of the state after the word is placed at the pointer and one step taken. -/
def run {α : Type} (w : Nat) (s : State) (view : State → α) : Option α := after (step (s.withFetchWord 32 w)) view

/-- All four flags set. -/
def allSet : Flags := ⟨true, true, true, true⟩

/-! ### Decoding: words written out from the formats R82 to R87 and the bytes of R91 -/

theorem test_decode_format_z : decode 0x00000000#32 = .instr .nop ∧ decode 0x1B000000#32 = .instr .timerst := by decide

theorem test_decode_format_rr_data :
    decode 0x01080700#32 = .instr (.input 8 7) ∧ decode 0x04020300#32 = .instr (.load 2 3) ∧
    decode 0x06030200#32 = .instr (.mov 3 2) ∧ decode 0x17030400#32 = .instr (.pixel 3 4) ∧
    decode 0x18020300#32 = .instr (.stor 2 3) := by decide

theorem test_decode_format_rr_alu :
    decode 0x0A020300#32 = .instr (.add 2 3) ∧ decode 0x0B020300#32 = .instr (.sub 2 3) ∧
    decode 0x0C020300#32 = .instr (.mul 2 3) ∧ decode 0x0D020300#32 = .instr (.div 2 3) ∧
    decode 0x0E020300#32 = .instr (.and 2 3) ∧ decode 0x0F020300#32 = .instr (.or 2 3) ∧
    decode 0x10020300#32 = .instr (.xor 2 3) ∧ decode 0x11020300#32 = .instr (.shl 2 3) ∧
    decode 0x12020300#32 = .instr (.shra 2 3) ∧ decode 0x13020300#32 = .instr (.shrl 2 3) ∧
    decode 0x14020300#32 = .instr (.cmp 2 3) ∧ decode 0x15020300#32 = .instr (.tst 2 3) := by decide

theorem test_decode_format_r :
    decode 0x08020000#32 = .instr (.push 2) ∧ decode 0x09030000#32 = .instr (.pop 3) ∧
    decode 0x16020000#32 = .instr (.color 2) ∧ decode 0x1A090000#32 = .instr (.time 9) ∧
    decode 0x1C0A0000#32 = .instr (.rnd 10) ∧ decode 0x30020000#32 = .instr (.jmp 2) := by decide

theorem test_decode_format_ri :
    decode 0x07028000#32 = .instr (.movi 2 0x8000) ∧ decode 0x05020100#32 = .instr (.loadi 2 0x0100) ∧
    decode 0x1902FFFF#32 = .instr (.stori 2 0xFFFF) := by decide

theorem test_decode_format_a :
    decode 0x02004000#32 = .instr (.call 0x0040) ∧ decode 0x31000800#32 = .instr (.jmpi 0x0008) ∧
    decode 0x32004000#32 = .instr (.jeq 0x0040) ∧ decode 0x33004000#32 = .instr (.jne 0x0040) ∧
    decode 0x34004000#32 = .instr (.jg 0x0040) ∧ decode 0x35004000#32 = .instr (.jge 0x0040) ∧
    decode 0x36004000#32 = .instr (.ja 0x0040) ∧ decode 0x37002400#32 = .instr (.jae 0x0024) := by decide

theorem test_decode_format_a_more :
    decode 0x38004000#32 = .instr (.jl 0x0040) ∧ decode 0x39004000#32 = .instr (.jle 0x0040) ∧
    decode 0x3A001800#32 = .instr (.jb 0x0018) ∧ decode 0x3B001000#32 = .instr (.jbe 0x0010) ∧
    decode 0x3C004300#32 = .instr (.jo 0x0043) ∧ decode 0x3D004000#32 = .instr (.jno 0x0040) ∧
    decode 0x3E004000#32 = .instr (.js 0x0040) ∧ decode 0x3FFFFC00#32 = .instr (.jns 0xFFFC) := by decide

theorem test_decode_format_i8 : decode 0x03FF0000#32 = .instr (.ret 0xFF) := by decide

/-- DM-2, DM-6, ST-11, CF-4, NU-2: ignored bits set (R89). -/
theorem test_decode_dirty_words :
    decode 0x06F3A277#32 = .instr (.mov 3 2) ∧ decode 0x07A20001#32 = .instr (.movi 2 1) ∧
    decode 0x020040FF#32 = .instr (.call 0x0040) ∧ decode 0x30029988#32 = .instr (.jmp 2) ∧
    decode 0x00123456#32 = .instr .nop := by decide

/-- NU-3 to NU-6: unknown opcodes, and `decodeTableWord` refuses them. -/
theorem test_decode_unknown :
    decode 0x1D020300#32 = .unknown 0x1D ∧ decode 0x2F000000#32 = .unknown 0x2F ∧
    decode 0x40004000#32 = .unknown 0x40 ∧ decode 0xFFFFFFFF#32 = .unknown 0xFF ∧
    decodeTableWord 32 0x1D020300 = none ∧ decodeTableWord 32 0x0A020300 = some (.add 2 3) := by decide

/-- The other direction on the words above (R82 to R87, R89). -/
theorem test_encode :
    encode (.add 2 3) = 0x0A020300#32 ∧ encode (.movi 2 0xFFFF) = 0x0702FFFF#32 ∧
    encode (.push 15) = 0x080F0000#32 ∧ encode (.call 0xABCD) = 0x02ABCD00#32 ∧ encode (.ret 0x02) = 0x03020000#32 ∧
    encode .timerst = 0x1B000000#32 := by decide

/-! ### WellFormed refuses ill-formed terms -/

theorem test_wellFormed_accepts :
    InstrLine.wellFormed ⟨.add, [.reg 15, .reg 0]⟩ = true ∧ InstrLine.wellFormed ⟨.ret, []⟩ = true ∧
    InstrLine.wellFormed ⟨.movi, [.reg 0, .label ['s']]⟩ = true ∧
    InstrLine.wellFormed ⟨.jmpi, [.literal 65535]⟩ = true := by decide

theorem test_wellFormed_refuses_register_16 : InstrLine.wellFormed ⟨.push, [.reg 16]⟩ = false := by decide

theorem test_wellFormed_refuses_wide_literals :
    InstrLine.wellFormed ⟨.movi, [.reg 2, .literal 65536]⟩ = false ∧
    InstrLine.wellFormed ⟨.ret, [.literal 256]⟩ = false := by decide

theorem test_wellFormed_refuses_wrong_operands :
    InstrLine.wellFormed ⟨.add, [.reg 2]⟩ = false ∧ InstrLine.wellFormed ⟨.nop, [.reg 2]⟩ = false ∧
    InstrLine.wellFormed ⟨.add, [.reg 2, .literal 3]⟩ = false ∧ InstrLine.wellFormed ⟨.jmpi, [.reg 2]⟩ = false ∧
    InstrLine.wellFormed ⟨.jmp, [.label ['f']]⟩ = false ∧ InstrLine.wellFormed ⟨.ret, [.label ['f']]⟩ = false ∧
    InstrLine.wellFormed ⟨.jmpi, [.noOperand .unrecognizedToken]⟩ = false := by decide

theorem test_wellFormed_refuses_unresolved_label :
    InstrLine.toInstr (fun _ => none) ⟨.jmpi, [.label ['f']]⟩ matches .error [.unresolvedLabelReference] := by decide

theorem test_canonicalWord :
    canonicalWord 0x06030200#32 = true ∧ canonicalWord 0x06F3A277#32 = false ∧ canonicalWord 0xFF000000#32 = false := by
  decide

theorem test_opcodeMap :
    opcodeMapWellFormed params.opc = true ∧ opcodeMapWellFormed (fun _ => 0x0A) = false ∧
    opcodeMapWellFormed (fun m => opcodeOf m + 1) = false := by decide

theorem test_imageFits :
    imageFits (List.replicate 65536 0) = true ∧ imageFits (List.replicate 65537 0) = false := by
  unfold imageFits
  rw [List.length_replicate, List.length_replicate]
  decide

/-- Memory forms that are not canonical: out of order, a fill byte listed, an address too high. -/
theorem test_memory_wf :
    Memory.wf [(1, 5), (2, 6)] = true ∧ Memory.wf [(2, 5), (1, 6)] = false ∧ Memory.wf [(1, 0)] = false ∧
    Memory.wf [(65536, 1)] = false := by decide

/-! ### Data movement -/

/-- DM-2. -/
theorem test_mov : run 0x06F3A277 (ab 0xBEEF 0) (fun t => (t.reg 3, t.pc, t.flags)) = some (0xBEEF, 4, Flags.clear) := by
  decide

/-- DM-3. -/
theorem test_mov_clears_flags :
    run 0x06020200 { base with flags := allSet } (fun t => (t.reg 2, t.flags)) = some (0, Flags.clear) := by decide

/-- DM-4. -/
theorem test_movi : run 0x07028000 base (fun t => (t.reg 2, t.flags)) = some (0x8000, Flags.clear) := by decide

/-- DM-8. -/
theorem test_load_odd :
    run 0x04020300 (((ab 0 0x0101).setByte 0x0101 0x34).setByte 0x0102 0x56) (fun t => t.reg 2) = some 0x3456 := by decide

/-- DM-9. -/
theorem test_load_wraps : run 0x04020300 ((ab 0 0xFFFF).setByte 0xFFFF 0xAB) (fun t => t.reg 2) = some 0xAB04 := by decide

/-- DM-12. -/
theorem test_loadi_reads_itself : run 0x05020002 base (fun t => t.reg 2) = some 0x0002 := by decide

/-- DM-14. -/
theorem test_stor_odd :
    run 0x18020300 ((((ab 0xCAFE 0x0201).setByte 0x0200 0x11).setByte 0x0201 0x22).setByte 0x0202 0x33)
      (fun t => [t.byteAt 0x0200, t.byteAt 0x0201, t.byteAt 0x0202]) = some [0x11, 0xCA, 0xFE] := by decide

/-- DM-15. -/
theorem test_stori_wraps :
    run 0x1902FFFF { ab 0xCAFE 0 with pc := 0x10 } (fun t => (t.byteAt 0xFFFF, t.byteAt 0, t.pc)) =
      some (0xCA, 0xFE, 0x14) := by decide

/-- DM-16: the high byte 0x00 is written over a byte that was not 0. -/
theorem test_stori_high_byte :
    run 0x19020200 ((ab 0x00FF 0).setByte 0x0200 0x77) (fun t => (t.byteAt 0x0200, t.byteAt 0x0201)) =
      some (0x00, 0xFF) := by decide

/-! ### Stack and subroutines -/

/-- ST-2. -/
theorem test_push_sp :
    run 0x08000000 (base.setReg 0 0x1000) (fun t => (t.reg 0, t.byteAt 0x1002, t.byteAt 0x1003)) =
      some (0x1002, 0x10, 0x00) := by decide

/-- ST-4. -/
theorem test_push_wraps :
    run 0x08020000 { (ab 0xCAFE 0).setReg 0 0xFFFD with pc := 0x10 } (fun t => (t.reg 0, t.byteAt 0xFFFF, t.byteAt 0)) =
      some (0xFFFF, 0xCA, 0xFE) := by decide

/-- ST-6. -/
theorem test_pop :
    run 0x09030000 (((base.setReg 0 0x1002).setByte 0x1002 0xCA).setByte 0x1003 0xFE) (fun t => (t.reg 0, t.reg 3)) =
      some (0x1000, 0xCAFE) := by decide

/-- ST-7. -/
theorem test_pop_sp :
    run 0x09000000 ((base.setReg 0 0x1002).setByte 0x1002 0x20) (fun t => t.reg 0) = some 0x1FFE := by decide

/-- ST-10. -/
theorem test_call :
    run 0x02004300 { base.setReg 0 0x2000 with pc := 0x10 }
      (fun t => (t.reg 0, t.byteAt 0x2002, t.byteAt 0x2003, t.pc)) = some (0x2002, 0x00, 0x10, 0x0040) := by decide

/-- ST-13. -/
theorem test_ret_2 : run 0x03020000 (inSub 0x00 0x10) (fun t => (t.reg 0, t.pc)) = some (0x2000, 0x0014) := by decide

/-- ST-17. -/
theorem test_ret_wraps : run 0x03000000 (inSub 0xFF 0xFE) (fun t => (t.reg 0, t.pc)) = some (0x2000, 0x0000) := by decide

/-! ### Arithmetic: the stored word, then `V C Z S` -/

/-- AL-5. -/
theorem test_add : run 0x0A020300 (ab 0x8000 0x8000) (fun t => (t.reg 2, t.flags)) = some (0, ⟨true, true, true, false⟩) := by
  decide

/-- AL-6. -/
theorem test_add_carry_only :
    run 0x0A020300 (ab 0xFFFF 0x0001) (fun t => (t.reg 2, t.flags)) = some (0, ⟨false, true, true, false⟩) := by decide

/-- AL-15. -/
theorem test_sub : run 0x0B020300 (ab 0x8000 0x0001) (fun t => (t.reg 2, t.flags)) =
    some (0x7FFF, ⟨true, false, false, false⟩) := by decide

/-- AL-12. -/
theorem test_sub_borrow : run 0x0B020300 (ab 0x0003 0x0005) (fun t => (t.reg 2, t.flags)) =
    some (0xFFFE, ⟨false, true, false, true⟩) := by decide

/-- AL-30. -/
theorem test_mul : run 0x0C020300 (ab 0xFFFF 0xFFFF) (fun t => (t.reg 2, t.flags)) =
    some (0x0001, ⟨false, true, false, false⟩) := by decide

/-- AL-29. -/
theorem test_mul_zero : run 0x0C020300 (ab 0x0100 0x0100) (fun t => (t.reg 2, t.flags)) =
    some (0x0000, ⟨false, true, true, false⟩) := by decide

/-- AL-36. -/
theorem test_div : run 0x0D020300 (ab 0xFFFF 0x0002) (fun t => (t.reg 2, t.flags)) =
    some (0x7FFF, ⟨false, false, false, false⟩) := by decide

/-- AL-39. -/
theorem test_div_by_zero : run 0x0D020300 (ab 0x0005 0x0000) (fun t => (t.reg 2, t.flags)) =
    some (0xFFFF, ⟨false, false, false, true⟩) := by decide

/-- AL-46. -/
theorem test_and : run 0x0E020300 (ab 0xFFFF 0x8000) (fun t => (t.reg 2, t.flags)) =
    some (0x8000, ⟨false, false, false, true⟩) := by decide

/-- AL-49. -/
theorem test_or : run 0x0F020300 (ab 0x1234 0x4321) (fun t => (t.reg 2, t.flags)) =
    some (0x5335, ⟨false, false, false, false⟩) := by decide

/-- AL-50, with one register as both operands. -/
theorem test_xor : run 0x10020200 (ab 0xFFFF 0) (fun t => (t.reg 2, t.flags)) =
    some (0x0000, ⟨false, false, true, false⟩) := by decide

/-- AL-57. -/
theorem test_shl : run 0x11020300 (ab 0x8001 0x0001) (fun t => (t.reg 2, t.flags)) =
    some (0x0002, ⟨false, true, false, false⟩) := by decide

/-- AL-63. -/
theorem test_shl_huge : run 0x11020300 (ab 0x0003 0xFFFF) (fun t => (t.reg 2, t.flags)) =
    some (0x0000, ⟨false, true, true, false⟩) := by decide

/-- AL-77. -/
theorem test_shra : run 0x12020300 (ab 0x8000 0x0000) (fun t => (t.reg 2, t.flags)) =
    some (0x8000, ⟨false, true, false, true⟩) := by decide

/-- AL-79. -/
theorem test_shra_huge : run 0x12020300 (ab 0xFFFE 0xFFFF) (fun t => (t.reg 2, t.flags)) =
    some (0xFFFF, ⟨false, true, false, true⟩) := by decide

/-- AL-65. -/
theorem test_shrl : run 0x13020300 (ab 0xFFFF 0x0004) (fun t => (t.reg 2, t.flags)) =
    some (0x0FFF, ⟨false, false, false, false⟩) := by decide

/-- AL-70. -/
theorem test_shrl_huge : run 0x13020300 (ab 0xFFFF 0xFFFF) (fun t => (t.reg 2, t.flags)) =
    some (0x0000, ⟨false, false, true, false⟩) := by decide

/-- AL-24. -/
theorem test_cmp : run 0x14020300 (ab 0xFFFF 0x0001) (fun t => (t.reg 2, t.flags)) =
    some (0xFFFF, ⟨false, false, false, true⟩) := by decide

/-- AL-27. -/
theorem test_cmp_overflow : run 0x14020300 (ab 0x7FFF 0x8000) (fun t => (t.reg 2, t.flags)) =
    some (0x7FFF, ⟨true, true, false, true⟩) := by decide

/-- AL-53. -/
theorem test_tst : run 0x15020300 (ab 0xF0F0 0x0F0F) (fun t => (t.reg 2, t.flags)) =
    some (0xF0F0, ⟨false, false, true, false⟩) := by decide

/-! ### Devices -/

/-- IO-1 and IO-2: whichever the port answers. -/
theorem test_input (n : Nat) :
    after (exec (.input 8 7) { (base.setReg 7 0x0007).setReg 8 0xFFFF with draws := n }) (fun t => t.reg 8) =
      some (if Config.inputAnswer n 0x0007 then 0x0001 else 0x0000) := rfl

/-- IO-5. -/
theorem test_color : run 0x16020000 { ab 0x1234 0 with color := 0xFF } (fun t => t.color) = some 0x34 := by decide

/-- IO-8: outside the grid the event is emitted unchanged. -/
theorem test_pixel :
    run 0x17030400 { (base.setReg 3 0x0100).setReg 4 0x00C0 with color := 0x03 } (fun t => t.pixels) =
      some [⟨0x0100, 0x00C0, 0x03⟩] := by decide

/-- IO-7 and IO-8 at the display: the last pixel of the grid shows, the one beyond does not. -/
theorem test_display :
    shownAt 0x00FF 0x00BF [⟨0x00FF, 0x00BF, 0x03⟩] = some 0x03 ∧ shownAt 0x0100 0x00C0 [⟨0x0100, 0x00C0, 0x03⟩] = none := by
  decide

/-- The rgb332 fields of a byte with red all ones (10_state.md R32). -/
theorem test_rgb332 : redOf 0xE0 = 7 ∧ greenOf 0xE0 = 0 ∧ blueOf 0xE0 = 0 := by decide

/-- IO-11. -/
theorem test_time (s : State) (hn : s.nowMillis = 71000#64) (ht : s.tref = 1000#64) :
    after (exec (.time 9) s) (fun t => t.reg 9) = some 0x1170 := by
  have e : after (exec (.time 9) s) (fun t => t.reg 9) =
      some ((s.clockRead.setReg 9 ((s.nowMillis - s.tref).extractLsb' 0 16)).reg 9) := rfl
  rw [e, State.reg_setReg_same, hn, ht]
  decide

/-- NU-7. -/
theorem test_timerst (s : State) (hn : s.nowMillis = 42#64) :
    after (exec .timerst s) (fun t => (t.tref, t.clock)) = some (42#64, 42#64) := by
  have e : after (exec .timerst s) (fun t => (t.tref, t.clock)) = some (s.nowMillis, s.nowMillis) := rfl
  rw [e, hn]

/-- IO-14, IO-15: whatever the port answers. -/
theorem test_rnd (n : Nat) :
    after (exec (.rnd 10) { base with draws := n, flags := allSet }) (fun t => (t.reg 10, t.flags)) =
      some (Config.randomAnswer n, Flags.clear) := rfl

/-! ### Control flow -/

/-- CF-2. -/
theorem test_jmp : run 0x30020000 (ab 0x0123 0) (fun t => t.pc) = some 0x0120 := by decide

/-- CF-7. -/
theorem test_jmpi : run 0x31010200 base (fun t => t.pc) = some 0x0100 := by decide

/-- CF-8, CF-9. -/
theorem test_jeq :
    run 0x32004000 (at10 ⟨false, false, true, false⟩) (fun t => (t.pc, t.flags)) = some (0x0040, Flags.clear) ∧
    run 0x32004000 (at10 Flags.clear) (fun t => t.pc) = some 0x0014 := by decide

/-- CF-10. -/
theorem test_jne : run 0x33004000 (at10 Flags.clear) (fun t => t.pc) = some 0x0040 := by decide

/-- CF-11. -/
theorem test_jg : run 0x34004000 (at10 ⟨true, false, false, true⟩) (fun t => t.pc) = some 0x0040 := by decide

/-- CF-14. -/
theorem test_ja : run 0x36004000 (at10 ⟨false, true, false, false⟩) (fun t => t.pc) = some 0x0014 := by decide

/-- CF-12. -/
theorem test_jl : run 0x38004000 (at10 ⟨false, false, false, true⟩) (fun t => t.pc) = some 0x0040 := by decide

/-- CF-13. -/
theorem test_jbe : run 0x3B004000 (at10 ⟨false, true, false, false⟩) (fun t => t.pc) = some 0x0040 := by decide

/-- CF-15. -/
theorem test_jo : run 0x3C004300 (at10 ⟨true, false, false, false⟩) (fun t => t.pc) = some 0x0040 := by decide

/-- CF-16. -/
theorem test_jns : run 0x3FFFFC00 (at10 Flags.clear) (fun t => t.pc) = some 0xFFFC := by decide

/-- CF-17. -/
theorem test_js : run 0x3E004000 { base with pc := 0xFFFC } (fun t => t.pc) = some 0x0000 := by decide

/-- The rows `0101` and `1010` (`V C Z S`) of the truth table, in the order JEQ to JNS of its columns. -/
theorem test_truth_table_rows :
    [condJeq, condJne, condJg, condJge, condJa, condJae, condJl, condJle, condJb, condJbe, condJo, condJno, condJs,
      condJns].map (fun c => (c ⟨false, true, false, true⟩, c ⟨true, false, true, false⟩)) =
    [(false, true), (true, false), (false, false), (false, false), (false, false), (false, true), (true, true),
      (true, true), (true, false), (true, true), (false, true), (true, false), (true, false), (false, true)] := by decide

/-- NU-1. -/
theorem test_nop : run 0x00000000 { base with flags := allSet } (fun t => (t.pc, t.flags)) = some (4, Flags.clear) := by
  decide

/-- NU-6. -/
theorem test_unknown : run 0xFFFFFFFF { base with pc := 0xFFFC, flags := allSet } (fun t => (t.pc, t.flags)) =
    some (0, Flags.clear) := by decide

/-! ### Assembler -/

/-- L1-3. -/
theorem test_assemble_forward_label :
    (match assemble ["JMPI foo".toList, "NOP ; skipped".toList, "foo:".toList, "NOP".toList] with
      | .ok image => image
      | .error _ => []) = [0x31, 0, 8, 0, 0, 0, 0, 0, 0, 0, 0, 0] := by decide

/-- L1-4. -/
theorem test_assemble_duplicate_label :
    (match assemble ["foo:".toList, "NOP".toList, "foo:".toList] with
      | .ok _ => []
      | .error es => es) = [AsmError.duplicateLabel] := by decide

/-- L1-5 and the data line of P2 (R102, R104, R107): register names, a literal of odd length, padding. -/
theorem test_assemble_operands :
    (match assemble ["MOVI A 0x1".toList, "ADD A R15".toList, "0xabc".toList] with
      | .ok image => image
      | .error _ => []) = [7, 2, 0, 1, 10, 2, 15, 0, 0x0A, 0xBC, 0, 0] := by decide

/-- R103: an identifier in an operand's place is a label reference, also one that spells a mnemonic. -/
theorem test_assemble_label_named_like_a_mnemonic :
    (match assemble ["ADD:".toList, "JMPI ADD".toList] with
      | .ok image => image
      | .error _ => []) = [0x31, 0, 0, 0] := by decide

/-- R110: all errors of all lines, two on a line included. -/
theorem test_assemble_lists_all_errors :
    (match assemble ["MOVI 0x1 0x10000".toList, "ADD ? foo:".toList, "R1 ?".toList] with
      | .ok _ => []
      | .error es => es) =
      [AsmError.invalidInstructionSyntax, .operandTooLarge, .unrecognizedToken, .invalidLabelDeclarationPosition,
        .invalidInstructionSyntax, .unrecognizedToken] := by decide

/-- R110: unresolved references are looked for only without syntax errors, and all of them are listed. -/
theorem test_assemble_lists_all_unresolved :
    (match assemble ["JMPI foo".toList, "CALL bar".toList] with
      | .ok _ => []
      | .error es => es) = [AsmError.unresolvedLabelReference, .unresolvedLabelReference] := by decide

/-! ### Witnesses -/

/-- Each mnemonic has a word whose byte 0 is its opcode: the hypothesis of `ReadsZ` to `ReadsI8` in every statement
that reads a mnemonic's words. -/
theorem witness_Reads : ∀ m ∈ Mnemonic.all, (opcodeOf m ++ 0x0F0F0F#24).extractLsb' 24 8 = opcodeOf m := by decide

theorem witness_EncodeOfDecodeClearsIgnoredBits : decode 0x06F3A277#32 = .instr (.mov 3 2) := by decide

theorem witness_IgnoredBitsDoNotChangeDecoding :
    (0x06030200#32).extractLsb' 24 8 = opcodeOf .mov ∧
    0x06030200#32 &&& ~~~ ignoredBits (formatOf .mov) = 0x06F3A277#32 &&& ~~~ ignoredBits (formatOf .mov) := by decide

/-- Both sides of each bound. -/
theorem witness_UnknownOpcodesUnderDefaultMap :
    decode 0x1C000000#32 = .instr (.rnd 0) ∧ decode 0x1D000000#32 = .unknown 0x1D ∧
    decode 0x2F000000#32 = .unknown 0x2F ∧ decode 0x30000000#32 = .instr (.jmp 0) ∧
    decode 0x3F000000#32 = .instr (.jns 0) ∧ decode 0x40000000#32 = .unknown 0x40 := by decide

theorem witness_StepRunsTheDecodedInstruction :
    base.haltRequest = false ∧ decode (base.byteAt base.pc ++ base.byteAt (base.pc + 1) ++ base.byteAt (base.pc + 2) ++
      base.byteAt (base.pc + 3)) = .instr .nop := by decide

theorem witness_StepRunsUnknownOpcodeAsNoOp :
    (base.setByte 0 0x1D).haltRequest = false ∧ ∀ m, opcodeOf m ≠ (base.setByte 0 0x1D).byteAt (base.setByte 0 0x1D).pc := by
  refine ⟨rfl, fun m => ?_⟩
  cases m <;> decide

theorem witness_HaltedCoreKeepsItsState : base.haltRequest = false := by decide

/-- A store into bytes 0 and 1 of the next instruction that gives an instruction, one into bytes 2 and 3, one that
reaches byte 0 only (from address 3) and gives an unknown opcode, and one at 0xFFFF whose low byte is byte 0 of a CALL's
target. -/
theorem witness_StoreIsSeenByTheNextFetch :
    base.haltRequest = false ∧ base.pc + 4 &&& 0xFFFC#16 = 4 ∧
    decode (fetchAfterStore base 4 0x0A03 4) = .instr (.add 3 0) ∧
    decode (fetchAfterStore (base.setByte 4 7) 6 0x1234 4) = .instr (.movi 0 0x1234) ∧
    decode (fetchAfterStore base 3 0x00FF 4) = .unknown 0xFF ∧
    decode (fetchAfterStore base 0xFFFF 0x001B 0) = .instr .timerst := by decide

/-- The clauses for register 0 and for another. -/
theorem witness_PopLoadsFromTheStackPointer : (0 : Reg) = sp ∧ (15 : Reg) ≠ sp := by decide

theorem witness_PopAfterPushRestores : (2 : Reg) ≠ sp ∧ (3 : Reg) ≠ sp := by decide

theorem witness_RetAfterCallResumesBehindTheCall :
    base.pc.toNat % 4 = 0 ∧ ({ base with pc := 0xFFFC } : State).pc.toNat % 4 = 0 := by decide

/-- The clauses for `src` zero and not zero. -/
theorem witness_DivStoresTheQuotient : (ab 5 0).reg 3 = 0 ∧ (ab 5 1).reg 3 ≠ 0 := by decide

theorem witness_OverflowFlagIsSignedOverflow :
    (Instr.and 2 3).mnemonic ∈ arithmetic ∧ (Instr.and 2 3).mnemonic ∉ [Mnemonic.add, .sub, .cmp] ∧
    ∃ t, exec (.and 2 3) (ab 1 1) = .next t := ⟨by decide, by decide, _, rfl⟩

theorem witness_ClockNeverRunsBackwards :
    (∃ t, step base = .next t) ∧ (∃ t, base.load [] = some t) ∧ (∃ t, exec (.time 9) base = .next t) ∧
    ∃ t, exec .timerst base = .next t := ⟨⟨_, rfl⟩, ⟨_, rfl⟩, ⟨_, rfl⟩, ⟨_, rfl⟩⟩

/-- Flags on which each single-flag condition holds, and flags on which it does not. -/
theorem witness_SingleFlagJumpsFollowTheirFlag :
    (∀ c ∈ [condJeq, condJae, condJno, condJns], c ⟨false, false, true, false⟩ = true ∧ c ⟨true, true, false, true⟩ = false) ∧
    (∀ c ∈ [condJne, condJb, condJo, condJs], c ⟨true, true, false, true⟩ = true ∧ c ⟨false, false, true, false⟩ = false) := by
  decide

/-- Flags on which each condition on several flags holds, and flags on which it does not. -/
theorem witness_ComparisonJumpsFollowTheirFlags :
    (∀ c ∈ [condJg, condJge, condJa], c ⟨true, false, false, true⟩ = true ∧ c ⟨true, true, true, false⟩ = false) ∧
    (∀ c ∈ [condJl, condJle, condJbe], c ⟨true, true, true, false⟩ = true ∧ c ⟨true, false, false, true⟩ = false) := by
  decide

/-- A jump, an arithmetic instruction and one that is neither. -/
theorem witness_FlagsLiveForOneInstruction :
    (∃ t, exec (.jeq 8) base = .next t) ∧ (Instr.jeq 8).mnemonic ∉ arithmetic ∧
    (∃ t, exec (.add 2 3) base = .next t) ∧ (Instr.add 2 3).mnemonic ∉ conditionalJumps ∧
    (∃ t, exec .nop base = .next t) := ⟨⟨_, rfl⟩, by decide, ⟨_, rfl⟩, by decide, ⟨_, rfl⟩⟩

theorem witness_NextPointerIsAlignedAndDefaultsToPlusFour :
    (∃ t, exec .nop base = .next t) ∧
    (Instr.nop).mnemonic ∉ [Mnemonic.jmp, .jmpi, .call, .ret] ++ conditionalJumps := ⟨⟨_, rfl⟩, by decide⟩

/-- A destination and the stack pointer. -/
theorem witness_OnlyListedRegistersAreWritten :
    (∃ t, exec (.movi 2 1) base = .next t ∧ t.reg 2 ≠ base.reg 2) ∧
    (∃ t, exec (.push 2) base = .next t ∧ t.reg sp ≠ base.reg sp) :=
  ⟨⟨_, rfl, by decide⟩, ⟨_, rfl, by decide⟩⟩

/-- An instruction that is none of the four, and each of the four, the STORI and the pushes at 0xFFFF. -/
theorem witness_OnlyFourInstructionsWriteMemory :
    (∃ t, exec (.load 2 3) base = .next t) ∧ (Instr.load 2 3).mnemonic ∉ [Mnemonic.stor, .stori, .push, .call] ∧
    (∃ t, exec (.stor 2 3) base = .next t) ∧ (∃ t, exec (.stori 2 0xFFFF) base = .next t) ∧
    (∃ t, exec (.push 2) (base.setReg sp 0xFFFD) = .next t) ∧ (∃ t, exec (.call 8) (base.setReg sp 0xFFFD) = .next t) :=
  ⟨⟨_, rfl⟩, by decide, ⟨_, rfl⟩, ⟨_, rfl⟩, ⟨_, rfl⟩, ⟨_, rfl⟩⟩

theorem witness_DeviceStateHasItsOwnWriters :
    (∃ t, exec .nop base = .next t) ∧ (Instr.nop).mnemonic ≠ .color ∧ (Instr.nop).mnemonic ≠ .timerst ∧
    (Instr.nop).mnemonic ≠ .pixel ∧ (Instr.nop).mnemonic ∉ [Mnemonic.input, .time, .timerst, .rnd] :=
  ⟨⟨_, rfl⟩, by decide, by decide, by decide, by decide⟩

theorem witness_RegistersReadWhatWasLastWritten : (0 : Reg) ≠ 15 := by decide

/-- The longest image that loads and the shortest that does not. -/
theorem witness_LoadPlacesTheImageAndResets :
    (List.replicate 65536 (0 : Byte)).length ≤ 65536 ∧ (List.replicate 65537 (0 : Byte)).length > 65536 := by
  rw [List.length_replicate, List.length_replicate]
  decide

/-- The conditional jumps after a comparison: the boundary words that order one way signed and the other unsigned. -/
theorem witness_JumpsAfterCmpDecideTheOrderings :
    (ab 0x8000 0x7FFF).reg 2 ≠ (ab 0x8000 0x7FFF).reg 3 ∧
    ((ab 0x8000 0x7FFF).reg 2).toNat > ((ab 0x8000 0x7FFF).reg 3).toNat ∧
    ((ab 0x8000 0x7FFF).reg 2).toInt < ((ab 0x8000 0x7FFF).reg 3).toInt := by decide

theorem witness_StepKeepsTheInvariant : base.Inv ∧ ∃ t, step base = .next t :=
  ⟨⟨by decide, by decide, by decide⟩, _, rfl⟩

/-- Reset, and a state after reset, a load and a halt request. -/
theorem witness_ReachableStatesMeetTheInvariantAndRunOn :
    Reachable State.reset ∧ ∃ t, State.reset.load [0x31] = some t ∧ Reachable t.raiseHalt :=
  ⟨.reset, _, rfl, .move (.move .reset (.load [0x31] rfl)) (.raiseHalt _)⟩

end Sys2Proof.Tests
end

section
/-! PROOFS. What `exec` does, said once for all 45 instructions: what it writes, where it goes and which flags it
leaves. Every statement about all instructions reads one of these three parts. -/
namespace Sys2Proof.Machine
open Sys2Proof.Statements

/-! ### A word stored and a word pushed -/

/-- The state with the word `v` stored at `a` (20_memory.md R51, R52). -/
def State.putWord (s : State) (a v : Word) : State :=
  (s.setByte a (v.extractLsb' 8 8)).setByte (a + 1) (v.extractLsb' 0 8)

/-- The state with the word `v` pushed (41_stack_call.md R130). -/
def State.pushed (s : State) (v : Word) : State := (s.setReg sp (s.reg sp + 2)).putWord (s.reg sp + 2) v

theorem execPush_eq (reg1 : Reg) (s : State) : execPush reg1 s = (s.pushed (s.reg reg1)).advance := by
  rw [execPush, State.pushWord_eq, orFault_some]; rfl

theorem execCall_eq (addr : Word) (s : State) : execCall addr s = (s.pushed s.pc).redirect addr := by
  rw [execCall, State.pushWord_eq, orFault_some]; rfl

theorem execPop_eq (reg1 : Reg) (s : State) :
    execPop reg1 s = (s.popInto reg1 (wordAt s (s.reg sp))).advance := by
  rw [execPop, State.loadWord_eq, orFault_some]; rfl

theorem execRet_eq (imm8 : Byte) (s : State) :
    execRet imm8 s =
      (s.setReg sp (s.reg sp - 2)).redirect (wordAt s (s.reg sp) + imm8.setWidth 16 + 4) := by
  rw [execRet, State.loadWord_eq, orFault_some]; rfl

theorem State.putWord_wf {s : State} (h : Memory.wf s.mem = true) (a v : Word) :
    Memory.wf (s.putWord a v).mem = true :=
  State.setByte_wf (State.setByte_wf h _ _) _ _

theorem State.pushed_wf {s : State} (h : Memory.wf s.mem = true) (v : Word) : Memory.wf (s.pushed v).mem = true :=
  State.putWord_wf (s := s.setReg sp _) h _ _

/-! ### The three parts of an instruction -/

/-- The operator and the operand registers of an arithmetic instruction (42_alu.md R140). -/
def aluOf : Instr → Option (AluOp × Reg × Reg)
  | .add reg1 reg2 => some (.add, reg1, reg2)
  | .sub reg1 reg2 => some (.sub, reg1, reg2)
  | .mul reg1 reg2 => some (.mul, reg1, reg2)
  | .div reg1 reg2 => some (.div, reg1, reg2)
  | .and reg1 reg2 => some (.and, reg1, reg2)
  | .or reg1 reg2 => some (.or, reg1, reg2)
  | .xor reg1 reg2 => some (.xor, reg1, reg2)
  | .shl reg1 reg2 => some (.shl, reg1, reg2)
  | .shra reg1 reg2 => some (.shra, reg1, reg2)
  | .shrl reg1 reg2 => some (.shrl, reg1, reg2)
  | .cmp reg1 reg2 => some (.cmp, reg1, reg2)
  | .tst reg1 reg2 => some (.tst, reg1, reg2)
  | _ => none

/-- The state once the instruction has written its registers, memory and devices, before the pointer and the flags
change. CMP, TST, NOP and the jumps write nothing. -/
def written (i : Instr) (s : State) : State :=
  match i with
  | .mov reg1 reg2 => s.setReg reg1 (s.reg reg2)
  | .movi reg1 imm16 => s.setReg reg1 imm16
  | .load reg1 reg2 => s.setReg reg1 (wordAt s (s.reg reg2))
  | .loadi reg1 imm16 => s.setReg reg1 (wordAt s imm16)
  | .stor reg1 reg2 => s.putWord (s.reg reg2) (s.reg reg1)
  | .stori reg1 imm16 => s.putWord imm16 (s.reg reg1)
  | .push reg1 => s.pushed (s.reg reg1)
  | .pop reg1 => s.popInto reg1 (wordAt s (s.reg sp))
  | .call _ => s.pushed s.pc
  | .ret _ => s.setReg sp (s.reg sp - 2)
  | .input reg1 reg2 => s.answered.setReg reg1 (if s.inputActive (s.reg reg2) then 1 else 0)
  | .color reg1 => { s with color := (s.reg reg1).extractLsb' 0 8 }
  | .pixel reg1 reg2 => s.emit ⟨s.reg reg1, s.reg reg2, s.color⟩
  | .time reg1 => s.clockRead.setReg reg1 ((s.nowMillis - s.tref).extractLsb' 0 16)
  | .timerst => { s.clockRead with tref := s.nowMillis }
  | .rnd reg1 => s.answered.setReg reg1 s.randomDraw
  | .cmp _ _ | .tst _ _ => s
  | i =>
    match aluOf i with
    | some (op, reg1, reg2) => s.setReg reg1 (aluStored op (s.reg reg1) (s.reg reg2))
    | none => s

/-- The condition and the target of a conditional jump (44_control_flow.md R185 to R198). -/
def jumpOf : Instr → Option ((Flags → Bool) × Word)
  | .jeq addr => some (condJeq, addr)
  | .jne addr => some (condJne, addr)
  | .jg addr => some (condJg, addr)
  | .jge addr => some (condJge, addr)
  | .ja addr => some (condJa, addr)
  | .jae addr => some (condJae, addr)
  | .jl addr => some (condJl, addr)
  | .jle addr => some (condJle, addr)
  | .jb addr => some (condJb, addr)
  | .jbe addr => some (condJbe, addr)
  | .jo addr => some (condJo, addr)
  | .jno addr => some (condJno, addr)
  | .js addr => some (condJs, addr)
  | .jns addr => some (condJns, addr)
  | _ => none

/-- Where an instruction that is no conditional jump goes (10_state.md R26, 41_stack_call.md R133, R134). -/
def plainTarget (i : Instr) (s : State) : Word :=
  match i with
  | .jmp reg1 => s.reg reg1
  | .jmpi addr | .call addr => addr
  | .ret imm8 => wordAt s (s.reg sp) + imm8.setWidth 16 + 4
  | _ => s.pc + 4

/-- Where the instruction goes, before the low two bits are cleared (10_state.md R27). -/
def nextTarget (i : Instr) (s : State) : Word :=
  match jumpOf i with
  | some (cond, addr) => if cond s.flags then addr else s.pc + 4
  | none => plainTarget i s

/-- The flags the instruction leaves: computed by an arithmetic one, cleared by any other (10_state.md R30). -/
def flagsLeft (i : Instr) (s : State) : Flags :=
  match aluOf i with
  | some (op, reg1, reg2) => aluFlags op (s.reg reg1) (s.reg reg2)
  | none => Flags.clear

/-- The state after the instruction. -/
def afterInstr (i : Instr) (s : State) : State :=
  { written i s with pc := alignPc (nextTarget i s), flags := flagsLeft i s }

/-- Every instruction completes in every state, in the state its three parts make up. -/
theorem exec_eq (i : Instr) (s : State) : exec i s = .next (afterInstr i s) := by
  cases i with
  | load reg1 reg2 => exact s.loadInto_eq reg1 _
  | loadi reg1 imm16 => exact s.loadInto_eq reg1 imm16
  | stor reg1 reg2 => exact s.storeFrom_eq reg1 _
  | stori reg1 imm16 => exact s.storeFrom_eq reg1 imm16
  | push reg1 => exact execPush_eq reg1 s
  | pop reg1 => exact execPop_eq reg1 s
  | call addr => exact execCall_eq addr s
  | ret imm8 => exact execRet_eq imm8 s
  | jeq addr | jne addr | jg addr | jge addr | ja addr | jae addr | jl addr | jle addr | jb addr | jbe addr
  | jo addr | jno addr | js addr | jns addr => exact s.jumpIf_eq _ addr
  | _ => rfl

theorem exec_eq_next_iff {i : Instr} {s t : State} : exec i s = .next t ↔ afterInstr i s = t := by
  simp [exec_eq]

/-! ### What an instruction writes (10_state.md R24, R32, R33, R35, R37) -/

section
variable (i : Instr) (s : State)

theorem written_haltRequest : (written i s).haltRequest = s.haltRequest := by
  cases i with
  | _ => rfl

variable {i}

theorem written_color (h : i.mnemonic ≠ .color) : (written i s).color = s.color := by
  cases i with
  | color => exact absurd rfl h
  | _ => rfl

theorem written_tref (h : i.mnemonic ≠ .timerst) : (written i s).tref = s.tref := by
  cases i with
  | timerst => exact absurd rfl h
  | _ => rfl

theorem written_pixels (h : i.mnemonic ≠ .pixel) : (written i s).pixels = s.pixels := by
  cases i with
  | pixel => exact absurd rfl h
  | _ => rfl

variable (i) in
theorem pixels_isPrefix_written : s.pixels <+: (written i s).pixels := by
  cases i with
  | pixel => exact List.prefix_append _ _
  | _ => exact List.prefix_rfl

theorem written_draws (h : i.mnemonic ∉ [.input, .time, .timerst, .rnd]) : (written i s).draws = s.draws := by
  cases i with
  | input | time | timerst | rnd => simp [Instr.mnemonic] at h
  | _ => rfl

theorem written_clock (h : i.mnemonic ∉ [.time, .timerst]) : (written i s).clock = s.clock := by
  cases i with
  | time | timerst => simp [Instr.mnemonic] at h
  | _ => rfl

end

theorem written_mem_wf (i : Instr) {s : State} (h : Memory.wf s.mem = true) : Memory.wf (written i s).mem = true := by
  cases i with
  | stor | stori => exact State.putWord_wf h _ _
  | push | call => exact State.pushed_wf h _
  | _ => exact h

/-- TIME moves the clock forwards, and TIMERST takes the reference from the clock it reads (60_exceptions.md R219). -/
theorem written_tref_le_clock (i : Instr) {s : State} (h : s.tref ≤ s.clock) :
    (written i s).tref ≤ (written i s).clock := by
  cases i with
  | time => exact BitVec.le_trans h s.clock_le_nowMillis
  | timerst => exact BitVec.le_refl _
  | _ => exact h

theorem State.eq_of_reg_setReg_ne {s : State} {r q : Reg} {v : Word} (h : (s.setReg r v).reg q ≠ s.reg q) : q = r :=
  Decidable.byContradiction fun hq => h (s.reg_setReg_ne hq v)

theorem State.eq_of_reg_popInto_ne {s : State} {r q : Reg} {v : Word} (h : (s.popInto r v).reg q ≠ s.reg q) :
    q = r ∨ q = sp := by
  by_contra hq
  obtain ⟨hr, hsp⟩ := not_or.1 hq
  exact h (by rw [State.popInto_eq, State.reg_setReg_ne _ hsp, State.reg_setReg_ne _ hr])

/-- The register an instruction changes is a destination, named by the `reg1` field, or the stack pointer
(10_state.md R24). -/
theorem reg_written_ne_cases {i : Instr} {s : State} {q : Reg} (h : (written i s).reg q ≠ s.reg q) :
    (i.mnemonic ∈ [.mov, .movi, .load, .loadi, .pop, .add, .sub, .mul, .div, .and, .or, .xor, .shl, .shra, .shrl,
        .input, .time, .rnd] ∧ q = (fieldsOf (encode i)).reg1) ∨
    (i.mnemonic ∈ [.push, .pop, .call, .ret] ∧ q = sp) := by
  cases i with
  | mov reg1 reg2 | load reg1 reg2 | add reg1 reg2 | sub reg1 reg2 | mul reg1 reg2 | div reg1 reg2 | and reg1 reg2
  | or reg1 reg2 | xor reg1 reg2 | shl reg1 reg2 | shra reg1 reg2 | shrl reg1 reg2 | input reg1 reg2 =>
    exact .inl ⟨by simp [Instr.mnemonic], (State.eq_of_reg_setReg_ne h).trans (reg1_wordRR _ _ _).symm⟩
  | movi reg1 imm16 | loadi reg1 imm16 =>
    exact .inl ⟨by simp [Instr.mnemonic], (State.eq_of_reg_setReg_ne h).trans (reg1_wordRI _ _ _).symm⟩
  | time reg1 | rnd reg1 =>
    exact .inl ⟨by simp [Instr.mnemonic], (State.eq_of_reg_setReg_ne h).trans (reg1_wordR _ _).symm⟩
  | pop reg1 =>
    rcases State.eq_of_reg_popInto_ne h with hq | hq
    · exact .inl ⟨by simp [Instr.mnemonic], hq.trans (reg1_wordR _ _).symm⟩
    · exact .inr ⟨by simp [Instr.mnemonic], hq⟩
  | push | call | ret => exact .inr ⟨by simp [Instr.mnemonic], State.eq_of_reg_setReg_ne h⟩
  | _ => exact absurd rfl h

/-! ### Where an instruction goes and which flags it leaves (10_state.md R26, R30, R31) -/

theorem jumpOf_eq_none {i : Instr} (h : i.mnemonic ∉ conditionalJumps) : jumpOf i = none := by
  cases i with
  | jeq | jne | jg | jge | ja | jae | jl | jle | jb | jbe | jo | jno | js | jns =>
    simp [Instr.mnemonic, conditionalJumps] at h
  | _ => rfl

theorem aluOf_eq_none {i : Instr} (h : i.mnemonic ∉ arithmetic) : aluOf i = none := by
  cases i with
  | add | sub | mul | div | and | or | xor | shl | shra | shrl | cmp | tst => simp [Instr.mnemonic, arithmetic] at h
  | _ => rfl

theorem nextTarget_eq_plainTarget {i : Instr} (s : State) (h : i.mnemonic ∉ conditionalJumps) :
    nextTarget i s = plainTarget i s := by
  rw [nextTarget, jumpOf_eq_none h]

theorem plainTarget_eq_pc_add_four {i : Instr} (s : State) (h : i.mnemonic ∉ [.jmp, .jmpi, .call, .ret]) :
    plainTarget i s = s.pc + 4 := by
  cases i with
  | jmp | jmpi | call | ret => simp [Instr.mnemonic] at h
  | _ => rfl

theorem flagsLeft_eq_clear {i : Instr} (s : State) (h : i.mnemonic ∉ arithmetic) : flagsLeft i s = Flags.clear := by
  rw [flagsLeft, aluOf_eq_none h]

section
variable (i : Instr) (s : State) (f : Flags)

theorem written_setFlags : written i { s with flags := f } = { written i s with flags := f } := by
  cases i with
  | _ => rfl

theorem flagsLeft_setFlags : flagsLeft i { s with flags := f } = flagsLeft i s := rfl

variable {i} in
theorem nextTarget_setFlags (h : i.mnemonic ∉ conditionalJumps) :
    nextTarget i { s with flags := f } = nextTarget i s := by
  rw [nextTarget_eq_plainTarget _ h, nextTarget_eq_plainTarget _ h]
  rfl

/-- Other flags before change at most where the instruction goes. -/
theorem afterInstr_setFlags :
    afterInstr i { s with flags := f } =
      { afterInstr i s with pc := alignPc (nextTarget i { s with flags := f }) } := by
  rw [afterInstr, written_setFlags, flagsLeft_setFlags]
  rfl

end

/-! ### The step, and the moves of the host -/

/-- A core that is not halted runs one instruction; an unknown opcode runs as NOP does (45_nop_unknown.md R201). -/
theorem step_eq_exec {s : State} (h : s.haltRequest = false) : ∃ i, step s = exec i s := by
  simp only [step, h]
  cases decode s.fetchWord with
  | instr i => exact ⟨i, rfl⟩
  | unknown => exact ⟨.nop, rfl⟩

/-- All that a step can do: nothing where the halt request is seen, and one instruction otherwise. -/
theorem step_eq_next_cases (s : State) :
    (s.haltRequest = true ∧ step s = .next s) ∨
      (s.haltRequest = false ∧ ∃ i, step s = .next (afterInstr i s)) := by
  cases h : s.haltRequest with
  | true => exact .inl ⟨rfl, by simp [step, h]⟩
  | false =>
    obtain ⟨i, hi⟩ := step_eq_exec h
    exact .inr ⟨rfl, i, hi.trans (exec_eq i s)⟩

theorem step_completes (s : State) : Completes (step s) := by
  obtain ⟨-, h⟩ | ⟨-, i, h⟩ := step_eq_next_cases s
  · exact ⟨s, h⟩
  · exact ⟨_, h⟩

/-! ### The invariant -/

theorem State.Inv.reset : State.reset.Inv where
  pcAligned := alignPc_aligned params.resetPc
  memWf := rfl
  timerBehindClock := BitVec.le_refl _

theorem State.Inv.afterInstr {s : State} (h : s.Inv) (i : Instr) : (afterInstr i s).Inv where
  pcAligned := alignPc_aligned (nextTarget i s)
  memWf := written_mem_wf i h.memWf
  timerBehindClock := written_tref_le_clock i h.timerBehindClock

theorem State.Inv.step {s t : State} (h : s.Inv) (hst : step s = .next t) : t.Inv := by
  obtain ⟨-, hs⟩ | ⟨-, i, hs⟩ := step_eq_next_cases s
  · cases hs.symm.trans hst
    exact h
  · cases hs.symm.trans hst
    exact h.afterInstr i

/-- A load establishes the invariant, whatever the state before. -/
theorem State.Inv.load {s t : State} {image : List Byte} (h : s.load image = some t) : t.Inv := by
  unfold State.load at h
  split at h
  · next hfits =>
    cases h
    exact ⟨alignPc_aligned params.resetPc, Memory.ofImage_wf hfits, BitVec.le_refl _⟩
  · cases h

theorem State.Inv.move {s t : State} (h : s.Inv) (hm : Move s t) : t.Inv := by
  cases hm with
  | step hst => exact h.step hst
  | load image hl => exact State.Inv.load hl
  | raiseHalt => exact ⟨h.pcAligned, h.memWf, h.timerBehindClock⟩
  | callForMore => exact ⟨h.pcAligned, h.memWf, h.timerBehindClock⟩

theorem Reachable.inv {s : State} (h : Reachable s) : s.Inv := by
  induction h with
  | reset => exact State.Inv.reset
  | move _ hm ih => exact ih.move hm

/-- The four bytes of a fetch lie within memory (20_memory.md R53). -/
theorem State.Inv.fetch_in_memory {s : State} (h : s.Inv) : s.pc.toNat + 3 ≤ 0xFFFF := by
  have haligned := h.pcAligned
  have hlt := s.pc.isLt
  omega

end Sys2Proof.Machine
end

section
/-! PROOFS. The statements about the state, settled. -/
namespace Sys2Proof.Proofs
open Sys2Proof.Machine Sys2Proof.Statements

/-- Settles O58: an instruction keeps each of the three parts, and a step is at most one instruction. -/
theorem stepKeepsTheInvariant : Obligations.StepKeepsTheInvariant := fun _ _ hinv hst => hinv.step hst

/-- Settles O59, by induction on the moves from reset. -/
theorem reachableStatesMeetTheInvariantAndRunOn : Obligations.ReachableStatesMeetTheInvariantAndRunOn :=
  fun s hr => ⟨hr.inv, hr.inv.fetch_in_memory, step_completes s⟩

/-- Settles O57. -/
theorem resetMeetsTheInvariant : Obligations.ResetMeetsTheInvariant := State.Inv.reset

/-- Settles O49: the flags before are read by the conditional jumps alone, and only to choose the target. -/
theorem flagsLiveForOneInstruction : Obligations.FlagsLiveForOneInstruction := by
  intro i s t f hst
  obtain rfl := exec_eq_next_iff.1 hst
  refine ⟨⟨_, exec_eq i _, ?_, fun hcond => ?_⟩, flagsLeft_eq_clear s⟩
  · exact flagsLeft_setFlags i s f
  · rw [afterInstr_setFlags, nextTarget_setFlags s f hcond]
    rfl

/-- Settles O50. -/
theorem nextPointerIsAlignedAndDefaultsToPlusFour : Obligations.NextPointerIsAlignedAndDefaultsToPlusFour := by
  intro i s t hst
  obtain rfl := exec_eq_next_iff.1 hst
  refine ⟨alignPc_aligned (nextTarget i s), fun hm => ?_⟩
  obtain ⟨hplain, hcond⟩ := not_or.1 (mt List.mem_append.2 hm)
  show alignPc (nextTarget i s) = alignPc (s.pc + 4)
  rw [nextTarget_eq_plainTarget s hcond, plainTarget_eq_pc_add_four s hplain]

/-- Settles O51. -/
theorem onlyListedRegistersAreWritten : Obligations.OnlyListedRegistersAreWritten := by
  intro i s t q hst hne
  obtain rfl := exec_eq_next_iff.1 hst
  exact reg_written_ne_cases hne

/-- Settles O53, one piece of device state at a time. -/
theorem deviceStateHasItsOwnWriters : Obligations.DeviceStateHasItsOwnWriters := by
  intro i s t hst
  obtain rfl := exec_eq_next_iff.1 hst
  exact ⟨written_color s, written_tref s, written_pixels s, pixels_isPrefix_written i s, written_draws s,
    written_clock s, written_haltRequest i s⟩

/-- Settles O54. -/
theorem registersReadWhatWasLastWritten : Obligations.RegistersReadWhatWasLastWritten :=
  fun s r _ v => ⟨s.reg_setReg_same r v, fun hq => s.reg_setReg_ne hq v⟩

end Sys2Proof.Proofs
end

section
/-! PROOFS. What memory and the next fetch read after a store, and what the step does with what it fetches. -/
namespace Sys2Proof.Machine
open Sys2Proof.Statements

/-! ### Memory after a word is stored (20_memory.md R51, R52, R57) -/

@[simp] theorem State.reg_putWord (s : State) (a v : Word) (q : Reg) : (s.putWord a v).reg q = s.reg q := rfl

theorem State.byteAt_putWord (s : State) (a v k : Word) : (s.putWord a v).byteAt k = byteAfterStore s a v k := by
  rw [State.putWord, State.byteAt_setByte, State.byteAt_setByte, byteAfterStore]
  by_cases hk : k = a
  · subst hk
    simp
  · simp [hk]

theorem State.byteAt_pushed (s : State) (v k : Word) :
    (s.pushed v).byteAt k = byteAfterStore s (s.reg sp + 2) v k :=
  State.byteAt_putWord (s.setReg sp (s.reg sp + 2)) (s.reg sp + 2) v k

/-- A load returns the word last stored, at every address (20_memory.md R64). -/
theorem wordAt_putWord (s : State) (a v : Word) : wordAt (s.putWord a v) a = v := by
  simp [wordAt, State.byteAt_putWord, byteAfterStore, highByte_append_lowByte]

theorem byteAfterStore_ne (s : State) {a k : Word} (v : Word) (hhigh : k ≠ a) (hlow : k ≠ a + 1) :
    byteAfterStore s a v k = s.byteAt k := by
  rw [byteAfterStore, if_neg hhigh, if_neg hlow]

/-- The memory of `t` is that of `s` with the word `v` stored at `a`. -/
def StoredAt (a v : Word) (s t : State) : Prop := ∀ k, t.byteAt k = byteAfterStore s a v k

theorem StoredAt.sameMemoryBut {a v : Word} {s t : State} (h : StoredAt a v s t) : SameMemoryBut a s t :=
  fun k hhigh hlow => (h k).trans (byteAfterStore_ne s v hhigh hlow)

theorem StoredAt.fetchWord {a v : Word} {s t : State} (h : StoredAt a v s t) :
    t.fetchWord = fetchAfterStore s a v t.pc := by
  rw [State.fetchWord, h, h, h, h]
  rfl

/-- An instruction that stores nothing leaves every byte of memory (20_memory.md R57). -/
theorem sameMemory_afterInstr {i : Instr} (s : State) (h : i.mnemonic ∉ [.stor, .stori, .push, .call]) :
    SameMemory s (afterInstr i s) := by
  cases i with
  | stor | stori | push | call => simp [Instr.mnemonic] at h
  | _ => exact fun _ => rfl

theorem storedAt_stor (reg1 reg2 : Reg) (s : State) :
    StoredAt (s.reg reg2) (s.reg reg1) s (afterInstr (.stor reg1 reg2) s) := s.byteAt_putWord _ _

theorem storedAt_stori (reg1 : Reg) (imm16 : Word) (s : State) :
    StoredAt imm16 (s.reg reg1) s (afterInstr (.stori reg1 imm16) s) := s.byteAt_putWord _ _

theorem storedAt_push (reg1 : Reg) (s : State) :
    StoredAt (s.reg sp + 2) (s.reg reg1) s (afterInstr (.push reg1) s) := s.byteAt_pushed _

theorem storedAt_call (addr : Word) (s : State) :
    StoredAt (s.reg sp + 2) s.pc s (afterInstr (.call addr) s) := s.byteAt_pushed _

/-! ### The fetched word (20_memory.md R53, 30_encoding.md R81) -/

/-- A word is put together from its four bytes, most significant first. -/
theorem wordOfBytes_extract (w : BitVec 32) :
    wordOfBytes (w.extractLsb' 24 8) (w.extractLsb' 16 8) (w.extractLsb' 8 8) (w.extractLsb' 0 8) = w := by
  rw [wordOfBytes, BitVec.extractLsb'_append_extractLsb'_eq_extractLsb' (show 24 = 16 + 8 from rfl),
    BitVec.extractLsb'_append_extractLsb'_eq_extractLsb' (show 16 = 8 + 8 from rfl),
    BitVec.extractLsb'_append_extractLsb'_eq_extractLsb' (show 8 = 0 + 8 from rfl)]
  exact BitVec.extractLsb'_eq_self

@[simp] theorem State.placeWord_pc (s : State) (a : Word) (w : BitVec 32) : (s.placeWord a w).pc = s.pc := rfl

/-- The four bytes are at four addresses even where they wrap, so none overwrites another. -/
theorem State.fetchWord_placeWord (s : State) (w : BitVec 32) : (s.placeWord s.pc w).fetchWord = w := by
  rw [State.fetchWord, State.placeWord_pc]
  simp [State.placeWord, State.byteAt_setByte, wordOfBytes_extract]

/-! ### What the step does with the fetched word (45_nop_unknown.md R201, R203) -/

section
variable {s : State} (hrun : s.haltRequest = false)
include hrun

theorem step_of_decode_instr {i : Instr} (h : decode s.fetchWord = .instr i) : step s = exec i s := by
  simp [step, hrun, h]

theorem step_of_decode_unknown {op : Byte} (h : decode s.fetchWord = .unknown op) : step s = execUnknown s := by
  simp [step, hrun, h]

/-- Whatever an instruction stores, the fetch of the next one reads (20_memory.md R67). -/
theorem StoredAt.seenByTheNextFetch {i : Instr} {a v : Word} (h : StoredAt a v s (afterInstr i s)) :
    SeenByTheNextFetch i s a v (alignPc (nextTarget i s)) := by
  have hfetch : fetchAfterStore s a v (alignPc (nextTarget i s)) = (afterInstr i s).fetchWord := h.fetchWord.symm
  have hrun' : (afterInstr i s).haltRequest = false := (written_haltRequest i s).trans hrun
  rw [SeenByTheNextFetch, hfetch]
  refine ⟨_, exec_eq i s, rfl, fun j hj => step_of_decode_instr hrun' hj, fun op hop => ?_⟩
  exact ⟨_, step_of_decode_unknown hrun' hop, ⟨rfl, rfl⟩, fun _ => rfl, fun _ => rfl, rfl, rfl, rfl, rfl, rfl, rfl⟩

end

end Sys2Proof.Machine
end

section
/-! PROOFS. The statements about memory, settled. -/
namespace Sys2Proof.Proofs
open Sys2Proof.Machine Sys2Proof.Statements

/-- Settles O10: the placed word is the word `w`, as it is below 2 to the 32, and the fetch reads what was placed. -/
theorem placedWordIsFetched : Obligations.PlacedWordIsFetched := by
  intro s w
  have hw : BitVec.ofNat 32 (w.toNat % 2 ^ 32) = w := by
    rw [Nat.mod_eq_of_lt w.isLt, BitVec.ofNat_toNat, BitVec.setWidth_eq]
  refine ⟨rfl, ?_, rfl⟩
  rw [State.withFetchWord, hw]
  exact s.fetchWord_placeWord w

/-- Settles O11: each of the four stores one word and goes on where the statement says. -/
theorem storeIsSeenByTheNextFetch : Obligations.StoreIsSeenByTheNextFetch := fun s hrun =>
  ⟨fun reg1 reg2 => (storedAt_stor reg1 reg2 s).seenByTheNextFetch hrun,
    fun reg1 imm16 => (storedAt_stori reg1 imm16 s).seenByTheNextFetch hrun,
    fun reg1 => (storedAt_push reg1 s).seenByTheNextFetch hrun,
    fun addr => (storedAt_call addr s).seenByTheNextFetch hrun⟩

/-- Settles O16. The STOR leaves the address register, so the LOAD reads the bytes it wrote. -/
theorem loadAfterStoreReturnsTheWord : Obligations.LoadAfterStoreReturnsTheWord := by
  intro s p a q
  refine ⟨_, _, exec_eq _ s, exec_eq _ _, ?_, fun r hr => State.reg_setReg_ne _ hr _⟩
  exact (State.reg_setReg_same _ q _).trans (wordAt_putWord s (s.reg a) (s.reg p))

/-- Settles O52: each of the four stores one word, at the address the statement names. -/
theorem onlyFourInstructionsWriteMemory : Obligations.OnlyFourInstructionsWriteMemory := by
  intro i s t hst
  obtain rfl := exec_eq_next_iff.1 hst
  refine ⟨sameMemory_afterInstr s, ?_, ?_, ?_, ?_⟩
  · rintro reg1 reg2 rfl
    exact (storedAt_stor reg1 reg2 s).sameMemoryBut
  · rintro reg1 imm16 rfl
    exact (storedAt_stori reg1 imm16 s).sameMemoryBut
  · rintro reg1 rfl
    exact (storedAt_push reg1 s).sameMemoryBut
  · rintro addr rfl
    exact (storedAt_call addr s).sameMemoryBut

end Sys2Proof.Proofs
end

section
/-! PROOFS. The decoder and the encoder, one against the other: what an encoding decodes to, which word a decoded
instruction encodes to, and which opcode bytes are known. -/
namespace Sys2Proof

/-! ### The word of a format (30_encoding.md R82 to R87, R89) -/

/-- The word of a format with the fields it names. -/
def wordOf (op : Byte) (f : Fields) : Format → BitVec 32
  | .z => wordZ op
  | .rr => wordRR op f.reg1 f.reg2
  | .r => wordR op f.reg1
  | .ri => wordRI op f.reg1 f.imm16
  | .a => wordA op f.addr
  | .i8 => wordI8 op f.imm8

theorem opcode_wordOf (op : Byte) (f : Fields) (fmt : Format) : (fieldsOf (wordOf op f fmt)).opcode = op := by
  cases fmt with
  | z => exact opcode_wordZ _
  | rr => exact opcode_wordRR _ _ _
  | r => exact opcode_wordR _ _
  | ri => exact opcode_wordRI _ _ _
  | a => exact opcode_wordA _ _
  | i8 => exact opcode_wordI8 _ _

/-- Put back in their places, the fields a format names are the word without the bits the format ignores. -/
theorem wordOf_fieldsOf (w : BitVec 32) (fmt : Format) :
    wordOf (fieldsOf w).opcode (fieldsOf w) fmt = w &&& ~~~ ignoredBits fmt := by
  refine BitVec.eq_of_getLsbD_eq fun k hk => ?_
  cases fmt with
  | _ =>
    simp only [wordOf, wordZ, wordRR, wordR, wordRI, wordA, wordI8, fieldsOf, ignoredBits, BitVec.getLsbD_and,
      BitVec.getLsbD_append, BitVec.getLsbD_extractLsb']
    interval_cases k <;> simp

/-- No format ignores a bit of byte 0. -/
theorem opcode_clearIgnored (w : BitVec 32) (fmt : Format) :
    (fieldsOf (w &&& ~~~ ignoredBits fmt)).opcode = (fieldsOf w).opcode := by
  rw [← wordOf_fieldsOf, opcode_wordOf]

/-! ### The instruction of a mnemonic with given fields -/

theorem mnemonic_instrOf (m : Mnemonic) (f : Fields) : (instrOf m f).mnemonic = m := by
  cases m with
  | _ => rfl

theorem encode_instrOf (m : Mnemonic) (f : Fields) : encode (instrOf m f) = wordOf (opcodeOf m) f (formatOf m) := by
  cases m with
  | _ => rfl

/-- A word with a known opcode byte, its ignored bits cleared, is the encoding of its instruction. -/
theorem encode_instrOf_fieldsOf {w : BitVec 32} {m : Mnemonic} (h : (fieldsOf w).opcode = opcodeOf m) :
    encode (instrOf m (fieldsOf w)) = w &&& ~~~ ignoredBits (formatOf m) := by
  rw [encode_instrOf, ← h, wordOf_fieldsOf]

/-! ### Decoding an encoding (30_encoding.md R88) -/

/-- The fields that an instruction's format names read back its operands. -/
theorem instrOf_fieldsOf_encode (i : Instr) : instrOf i.mnemonic (fieldsOf (encode i)) = i := by
  cases i with
  | nop | timerst => rfl
  | push | pop | color | time | rnd | jmp => simp only [Instr.mnemonic, instrOf, encode, reg1_wordR]
  | loadi | movi | stori => simp only [Instr.mnemonic, instrOf, encode, reg1_wordRI, imm16_wordRI]
  | call | jmpi | jeq | jne | jg | jge | ja | jae | jl | jle | jb | jbe | jo | jno | js | jns =>
    simp only [Instr.mnemonic, instrOf, encode, addr_wordA]
  | ret => simp only [Instr.mnemonic, instrOf, encode, imm8_wordI8]
  | _ => simp only [Instr.mnemonic, instrOf, encode, reg1_wordRR, reg2_wordRR]

theorem opcode_encode (i : Instr) : (fieldsOf (encode i)).opcode = opcodeOf i.mnemonic := by
  have hword : encode i = wordOf (opcodeOf i.mnemonic) (fieldsOf (encode i)) (formatOf i.mnemonic) := by
    rw [← encode_instrOf, instrOf_fieldsOf_encode]
  rw [hword, opcode_wordOf]

theorem decode_encode (i : Instr) : decode (encode i) = .instr i := by
  rw [decode_of_opcode (opcode_encode i), instrOf_fieldsOf_encode]

theorem encode_injective : Function.Injective encode := by
  intro i j h
  have hdecode : Decoded.instr i = .instr j := by rw [← decode_encode i, h, decode_encode j]
  exact Decoded.instr.inj hdecode

/-! ### What a word decodes to (30_encoding.md R91 to R93) -/

theorem decode_eq_instr_iff {w : BitVec 32} {i : Instr} :
    decode w = .instr i ↔ ∃ m, (fieldsOf w).opcode = opcodeOf m ∧ instrOf m (fieldsOf w) = i := by
  constructor
  · intro h
    unfold decode at h
    split at h
    · next m hm => exact ⟨m, (opcodeOf_of_mnemonicOf hm).symm, Decoded.instr.inj h⟩
    · cases h
  · rintro ⟨m, hop, rfl⟩
    exact decode_of_opcode hop

theorem decode_eq_unknown_iff {w : BitVec 32} :
    decode w = .unknown (fieldsOf w).opcode ↔ mnemonicOf (fieldsOf w).opcode = none := by
  unfold decode
  split
  · next m hm => simp [hm]
  · next hm => simp [hm]

theorem mnemonicOf_eq_none_iff {op : Byte} :
    mnemonicOf op = none ↔ op.toNat ∉ Mnemonic.all.map fun m => (opcodeOf m).toNat := by
  simp [mnemonicOf, BitVec.toNat_inj]

/-- The default of OPC (the spec's decision D1, log 1) numbers the mnemonics in two runs. -/
theorem opcodes_eq_ranges :
    (Mnemonic.all.map fun m => (opcodeOf m).toNat) = List.range' 0x00 0x1D ++ List.range' 0x30 0x10 := by decide

end Sys2Proof
end

section
/-! PROOFS. The statements about the encoding, settled. -/
namespace Sys2Proof.Proofs

/-- Settles O1: byte 0 gives back the mnemonic, as OPC is injective, and the fields give back the operands. -/
theorem decodeOfEncodeGivesTheInstruction : Obligations.DecodeOfEncodeGivesTheInstruction := decode_encode

/-- Settles O2: the fields the format names, put back in their places, are the word without its ignored bits. -/
theorem encodeOfDecodeClearsIgnoredBits : Obligations.EncodeOfDecodeClearsIgnoredBits := by
  intro w i h
  obtain ⟨m, hop, rfl⟩ := decode_eq_instr_iff.1 h
  rw [mnemonic_instrOf, encode_instrOf_fieldsOf hop]

/-- Settles O3: both words decode to an instruction of the mnemonic, and the two encode to the same word. -/
theorem ignoredBitsDoNotChangeDecoding : Obligations.IgnoredBitsDoNotChangeDecoding := by
  intro w v m hw hclear
  have hv : (fieldsOf v).opcode = opcodeOf m := by
    rw [← opcode_clearIgnored v (formatOf m), ← hclear, opcode_clearIgnored]
    exact hw
  have hencode : encode (instrOf m (fieldsOf v)) = encode (instrOf m (fieldsOf w)) := by
    rw [encode_instrOf_fieldsOf hv, encode_instrOf_fieldsOf hw, hclear]
  rw [decode_of_opcode hv, decode_of_opcode hw, encode_injective hencode]

/-- Settles O4: the unknown bytes are those outside the two runs of opcodes. -/
theorem unknownOpcodesUnderDefaultMap : Obligations.UnknownOpcodesUnderDefaultMap := by
  intro w
  refine decode_eq_unknown_iff.trans ?_
  rw [mnemonicOf_eq_none_iff, opcodes_eq_ranges, List.mem_append, List.mem_range'_1, List.mem_range'_1]
  simp only [BitVec.le_def, BitVec.toNat_ofNat, fieldsOf]
  omega

/-- Settles O5, by evaluating the decoder at each of the eight words. -/
theorem writtenOutWordsDecode : Obligations.WrittenOutWordsDecode := by
  unfold Obligations.WrittenOutWordsDecode
  decide

end Sys2Proof.Proofs
end

section
/-! PROOFS. The two shapes of a data move: a non-arithmetic instruction that writes one register, and one that stores
one word. -/
namespace Sys2Proof.Machine
open Sys2Proof.Statements

/-! ### Frames of the two writes (10_state.md R23, 20_memory.md R57) -/

theorem State.sameDevices_setReg (s : State) (r : Reg) (v : Word) : SameDevices s (s.setReg r v) :=
  ⟨rfl, rfl, rfl, rfl, rfl, rfl⟩

theorem State.sameDevices_putWord (s : State) (a v : Word) : SameDevices s (s.putWord a v) :=
  ⟨rfl, rfl, rfl, rfl, rfl, rfl⟩

theorem StoredAt.highByte {a v : Word} {s t : State} (h : StoredAt a v s t) : t.byteAt a = v.extractLsb' 8 8 := by
  rw [h, byteAfterStore, if_pos rfl]

/-- The low byte lies at another address than the high one, also where it wraps to 0 (20_memory.md R56). -/
theorem StoredAt.lowByte {a v : Word} {s t : State} (h : StoredAt a v s t) :
    t.byteAt (a + 1) = v.extractLsb' 0 8 := by
  have hne : a + 1 ≠ a := by simp
  rw [h, byteAfterStore, if_neg hne, if_pos rfl]

/-! ### The end of a non-arithmetic instruction (10_state.md R27, R30) -/

theorem ends_afterInstr {i : Instr} (s : State) (h : i.mnemonic ∉ arithmetic) :
    Ends (nextTarget i s) (afterInstr i s) := ⟨rfl, flagsLeft_eq_clear s h⟩

/-! ### The two shapes

What an instruction leaves but the pointer and the flags is what `written` leaves, so the frames are those of the
one write. -/

section
variable {i : Instr} {s : State} (harith : i.mnemonic ∉ arithmetic)
include harith

theorem exec_of_written_setReg {r : Reg} {v : Word} (hw : written i s = s.setReg r v) :
    ∃ t, exec i s = .next t ∧ t.reg r = v ∧ SameRegsBut r s t ∧ SameMemory s t ∧ SameDevices s t ∧
      Ends (nextTarget i s) t := by
  refine ⟨_, exec_eq i s, ?_, ?_, ?_, ?_, ends_afterInstr s harith⟩
  · show (written i s).reg r = v
    rw [hw, State.reg_setReg_same]
  · show SameRegsBut r s (written i s)
    rw [hw]
    exact fun q hq => s.reg_setReg_ne hq v
  · show SameMemory s (written i s)
    rw [hw]
    exact s.byteAt_setReg r v
  · show SameDevices s (written i s)
    rw [hw]
    exact s.sameDevices_setReg r v

theorem exec_of_written_putWord {a v : Word} (hw : written i s = s.putWord a v) :
    ∃ t, exec i s = .next t ∧ t.byteAt a = v.extractLsb' 8 8 ∧ t.byteAt (a + 1) = v.extractLsb' 0 8 ∧
      SameMemoryBut a s t ∧ SameRegs s t ∧ SameDevices s t ∧ Ends (nextTarget i s) t := by
  have hstored : StoredAt a v s (afterInstr i s) := by
    show StoredAt a v s (written i s)
    rw [hw]
    exact s.byteAt_putWord a v
  refine ⟨_, exec_eq i s, hstored.highByte, hstored.lowByte, hstored.sameMemoryBut, ?_, ?_, ends_afterInstr s harith⟩
  · show SameRegs s (written i s)
    rw [hw]
    exact s.reg_putWord a v
  · show SameDevices s (written i s)
    rw [hw]
    exact s.sameDevices_putWord a v

end

end Sys2Proof.Machine
end

section
/-! PROOFS. The statements about data movement, settled. Each instruction is read by its opcode byte and has one of
the two shapes. -/
namespace Sys2Proof.Proofs
open Sys2Proof.Machine Sys2Proof.Statements

/-- Settles O12. -/
theorem movCopiesARegister : Obligations.MovCopiesARegister :=
  ⟨fun _ => decode_of_opcode, fun reg1 reg2 s =>
    exec_of_written_setReg (i := .mov reg1 reg2) (by simp [Instr.mnemonic, arithmetic]) rfl⟩

/-- Settles O13. -/
theorem moviLoadsTheImmediate : Obligations.MoviLoadsTheImmediate :=
  ⟨fun _ => decode_of_opcode, fun reg1 imm16 s =>
    exec_of_written_setReg (i := .movi reg1 imm16) (by simp [Instr.mnemonic, arithmetic]) rfl⟩

/-- Settles O14: both write the word at their address to `reg1`. -/
theorem loadsReadABigEndianWord : Obligations.LoadsReadABigEndianWord := by
  refine ⟨⟨fun _ => decode_of_opcode, fun reg1 reg2 s => ?_⟩, ⟨fun _ => decode_of_opcode, fun reg1 imm16 s => ?_⟩⟩
  · exact exec_of_written_setReg (i := .load reg1 reg2) (by simp [Instr.mnemonic, arithmetic]) rfl
  · exact exec_of_written_setReg (i := .loadi reg1 imm16) (by simp [Instr.mnemonic, arithmetic]) rfl

/-- Settles O15: both store the word of `reg1` at their address. -/
theorem storesWriteABigEndianWord : Obligations.StoresWriteABigEndianWord := by
  refine ⟨⟨fun _ => decode_of_opcode, fun reg1 reg2 s => ?_⟩, ⟨fun _ => decode_of_opcode, fun reg1 imm16 s => ?_⟩⟩
  · exact exec_of_written_putWord (i := .stor reg1 reg2) (by simp [Instr.mnemonic, arithmetic]) rfl
  · exact exec_of_written_putWord (i := .stori reg1 imm16) (by simp [Instr.mnemonic, arithmetic]) rfl

end Sys2Proof.Proofs
end

section
/-! PROOFS. The push that PUSH and CALL share, the registers after a POP, and the return address of a RET. -/
namespace Sys2Proof.Machine
open Sys2Proof.Statements

/-! ### Registers after a push and after a pop (41_stack_call.md R130, R132) -/

@[simp] theorem State.reg_pushed_sp (s : State) (v : Word) : (s.pushed v).reg sp = s.reg sp + 2 :=
  s.reg_setReg_same sp _

theorem State.reg_pushed_ne (s : State) {q : Reg} (h : q ≠ sp) (v : Word) : (s.pushed v).reg q = s.reg q :=
  s.reg_setReg_ne h _

@[simp] theorem State.reg_popInto_sp_sp (s : State) (v : Word) : (s.popInto sp v).reg sp = v - 2 := by
  simp [State.popInto_eq]

theorem State.reg_popInto_same (s : State) {r : Reg} (h : r ≠ sp) (v : Word) : (s.popInto r v).reg r = v := by
  rw [State.popInto_eq, State.reg_setReg_ne _ h, State.reg_setReg_same]

theorem State.reg_popInto_sp (s : State) {r : Reg} (h : r ≠ sp) (v : Word) :
    (s.popInto r v).reg sp = s.reg sp - 2 := by
  rw [State.popInto_eq, State.reg_setReg_same, State.reg_setReg_ne _ h.symm]

theorem State.reg_popInto_ne (s : State) {r q : Reg} (hr : q ≠ r) (hsp : q ≠ sp) (v : Word) :
    (s.popInto r v).reg q = s.reg q :=
  Decidable.byContradiction fun h => (State.eq_of_reg_popInto_ne h).elim hr hsp

/-! ### The pushing shape -/

/-- What a non-arithmetic instruction that pushes one word does: PUSH and CALL differ in the word and the target. -/
theorem exec_of_written_pushed {i : Instr} {s : State} (harith : i.mnemonic ∉ arithmetic) {v : Word}
    (hw : written i s = s.pushed v) :
    ∃ t, exec i s = .next t ∧ t.reg sp = s.reg sp + 2 ∧ SameRegsBut sp s t ∧
      t.byteAt (s.reg sp + 2) = v.extractLsb' 8 8 ∧ t.byteAt (s.reg sp + 2 + 1) = v.extractLsb' 0 8 ∧
      SameMemoryBut (s.reg sp + 2) s t ∧ SameDevices s t ∧ Ends (nextTarget i s) t := by
  have hstored : StoredAt (s.reg sp + 2) v s (afterInstr i s) := by
    show StoredAt (s.reg sp + 2) v s (written i s)
    rw [hw]
    exact s.byteAt_pushed v
  refine ⟨_, exec_eq i s, ?_, ?_, hstored.highByte, hstored.lowByte, hstored.sameMemoryBut, ?_,
    ends_afterInstr s harith⟩
  · show (written i s).reg sp = s.reg sp + 2
    rw [hw, State.reg_pushed_sp]
  · show SameRegsBut sp s (written i s)
    rw [hw]
    exact fun q hq => s.reg_pushed_ne hq v
  · show SameDevices s (written i s)
    rw [hw]
    exact (s.setReg sp (s.reg sp + 2)).sameDevices_putWord (s.reg sp + 2) v

theorem wordAt_eq_of_bytes {t : State} {a v : Word} (hhigh : t.byteAt a = v.extractLsb' 8 8)
    (hlow : t.byteAt (a + 1) = v.extractLsb' 0 8) : wordAt t a = v := by
  rw [wordAt, hhigh, hlow, highByte_append_lowByte]

/-! ### The return address (10_state.md R27, 41_stack_call.md R134) -/

/-- Aligning a sum leaves an aligned summand as it is, also where the sum wraps: 4 divides 65536. -/
theorem alignPc_add_of_aligned {a : Word} (h : a.toNat % 4 = 0) (b : Word) : alignPc (a + b) = a + alignPc b := by
  apply BitVec.eq_of_toNat_eq
  rw [alignPc_toNat, BitVec.toNat_add, BitVec.toNat_add, alignPc_toNat]
  omega

theorem alignPc_setWidth (b : Byte) : alignPc (b.setWidth 16) = (b &&& 0xFC#8).setWidth 16 := by
  ext i hi
  simp only [alignPc, BitVec.getElem_and, BitVec.getElem_setWidth, BitVec.getLsbD_and]
  interval_cases i <;> simp

/-- RET at the CALL's own address: the `+ 4` that skips the CALL is aligned as well, so only `imm8` loses bits. -/
theorem alignPc_returnTarget {pc : Word} (h : pc.toNat % 4 = 0) (imm8 : Byte) :
    alignPc (pc + imm8.setWidth 16 + 4) = pc + 4 + (imm8 &&& 0xFC#8).setWidth 16 := by
  have hbehind : (pc + 4).toNat % 4 = 0 := by
    rw [BitVec.toNat_add, show (4 : Word).toNat = 4 from rfl]
    omega
  rw [add_right_comm, alignPc_add_of_aligned hbehind, alignPc_setWidth]

end Sys2Proof.Machine
end

section
/-! PROOFS. The statements about the stack and subroutines, settled. The two round trips follow from what each of
their instructions does. -/
namespace Sys2Proof.Proofs
open Sys2Proof.Machine Sys2Proof.Statements

/-- Settles O17. -/
theorem pushStoresAboveTheStackPointer : Obligations.PushStoresAboveTheStackPointer :=
  ⟨fun _ => decode_of_opcode, fun reg1 s =>
    exec_of_written_pushed (i := .push reg1) (by simp [Instr.mnemonic, arithmetic]) rfl⟩

/-- Settles O18. With register 0 as destination the loaded word is what loses 2. -/
theorem popLoadsFromTheStackPointer : Obligations.PopLoadsFromTheStackPointer := by
  refine ⟨fun _ => decode_of_opcode, fun reg1 s => ⟨_, exec_eq (.pop reg1) s, fun h => ?_, ?_, fun q hr hsp => ?_,
    sameMemory_afterInstr s (by simp [Instr.mnemonic]), ⟨rfl, rfl, rfl, rfl, rfl, rfl⟩,
    ends_afterInstr s (by simp [Instr.mnemonic, arithmetic])⟩⟩
  · exact ⟨s.reg_popInto_same h _, s.reg_popInto_sp h _⟩
  · rintro rfl
    exact s.reg_popInto_sp_sp _
  · exact s.reg_popInto_ne hr hsp _

/-- Settles O20. -/
theorem callPushesItsAddressAndRedirects : Obligations.CallPushesItsAddressAndRedirects :=
  ⟨fun _ => decode_of_opcode, fun addr s =>
    exec_of_written_pushed (i := .call addr) (by simp [Instr.mnemonic, arithmetic]) rfl⟩

/-- Settles O21: RET writes one register, the stack pointer. -/
theorem retAddsItsImmediateToThePoppedAddress : Obligations.RetAddsItsImmediateToThePoppedAddress :=
  ⟨fun _ => decode_of_opcode, fun imm8 s =>
    exec_of_written_setReg (i := .ret imm8) (by simp [Instr.mnemonic, arithmetic]) rfl⟩

/-- Settles O19: the POP reads where the PUSH wrote, at the stack pointer the PUSH left. -/
theorem popAfterPushRestores : Obligations.PopAfterPushRestores := by
  intro s p q _ hq
  obtain ⟨t, ht, hsp, hregs, hhigh, hlow, -⟩ := pushStoresAboveTheStackPointer.2 p s
  obtain ⟨u, hu, hpop, -, hkept, -⟩ := popLoadsFromTheStackPointer.2 q t
  obtain ⟨hloaded, hlowered⟩ := hpop hq
  have hword : wordAt t (t.reg sp) = s.reg p := by rw [hsp, wordAt_eq_of_bytes hhigh hlow]
  have hback : u.reg sp = s.reg sp := by rw [hlowered, hsp, BitVec.add_sub_cancel]
  refine ⟨t, u, ht, hu, hloaded.trans hword, hback, fun r hr => ?_⟩
  by_cases hrsp : r = sp
  · rw [hrsp, hback]
  · exact (hkept r hr hrsp).trans (hregs r hrsp)

/-- Settles O22: the RET pops the address the CALL pushed, its own. -/
theorem retAfterCallResumesBehindTheCall : Obligations.RetAfterCallResumesBehindTheCall := by
  intro s addr imm8 haligned
  obtain ⟨t, ht, hsp, hregs, hhigh, hlow, -⟩ := callPushesItsAddressAndRedirects.2 addr s
  obtain ⟨u, hu, hlowered, hkept, -, -, hpc, -⟩ := retAddsItsImmediateToThePoppedAddress.2 imm8 t
  have hword : wordAt t (t.reg sp) = s.pc := by rw [hsp, wordAt_eq_of_bytes hhigh hlow]
  refine ⟨t, u, ht, hu, ?_, fun r => ?_⟩
  · rw [hpc, hword]
    exact alignPc_returnTarget haligned imm8
  · by_cases hrsp : r = sp
    · rw [hrsp, hlowered, hsp, BitVec.add_sub_cancel]
    · exact (hkept r hrsp).trans (hregs r hrsp)

end Sys2Proof.Proofs
end

section
/-! PROOFS. The two shapes of an arithmetic instruction, and what each of the twelve operators stores and which flags
it leaves. -/
namespace Sys2Proof.Machine
open Sys2Proof.Statements

/-! ### The two shapes (42_alu.md R140) -/

section
variable {i : Instr} {s : State} {op : AluOp} {reg1 reg2 : Reg} {v : Word} {f : Flags}

theorem stores_of_exec_eq_aluStore (hexec : exec i s = s.aluStore op reg1 reg2)
    (hv : aluStored op (s.reg reg1) (s.reg reg2) = v) (hf : aluFlags op (s.reg reg1) (s.reg reg2) = f) :
    Stores i s reg1 v f := by
  subst hv hf
  exact ⟨_, hexec, s.reg_setReg_same reg1 _, fun q hq => s.reg_setReg_ne hq _, rfl, rfl, fun _ => rfl,
    s.sameDevices_setReg reg1 (aluStored op (s.reg reg1) (s.reg reg2))⟩

theorem tests_of_exec_eq_aluTest (hexec : exec i s = s.aluTest op reg1 reg2)
    (hf : aluFlags op (s.reg reg1) (s.reg reg2) = f) : Tests i s f := by
  subst hf
  exact ⟨_, hexec, fun _ => rfl, rfl, rfl, fun _ => rfl, rfl, rfl, rfl, rfl, rfl, rfl⟩

end

/-! ### The low word and the carry of a result (42_alu.md R143, section 2) -/

theorem low16_natCast (n : Nat) : low16 n = BitVec.ofNat 16 n := BitVec.ofInt_natCast 16 n

theorem low16_toNat (w : Word) : low16 w.toNat = w := by rw [low16_natCast, BitVec.ofNat_toNat, BitVec.setWidth_eq]

theorem low16_toInt (w : Word) : low16 w.toInt = w := BitVec.ofInt_toInt

/-- A difference of two words has the bits of their difference as words, also where it is negative (D14). -/
theorem low16_sub (dest src : Word) : low16 (dest.toNat - src.toNat) = dest - src := by
  apply BitVec.eq_of_toInt_eq
  rw [low16, BitVec.toInt_ofInt, BitVec.toInt_sub, BitVec.toInt_eq_toNat_bmod, BitVec.toInt_eq_toNat_bmod,
    Int.bmod_sub_bmod, Int.sub_bmod_bmod]

theorem carryFlag_natCast (n : Nat) : carryFlag n = decide (n > 0xFFFF) := by
  have hnonneg : ¬ (n : Int) < 0 := by omega
  have hbound : (n : Int) > 0xFFFF ↔ n > 0xFFFF := by omega
  simp only [carryFlag, hnonneg, hbound, decide_false, Bool.false_or]

theorem carryFlag_toNat (w : Word) : carryFlag w.toNat = false := by
  have hlt := w.isLt
  rw [carryFlag_natCast, decide_eq_false_iff_not]
  omega

/-- A word read as signed is below 0 exactly where bit 15 is set, and never above 0xFFFF. -/
theorem carryFlag_toInt (w : Word) : carryFlag w.toInt = w.msb := by
  have hbound : ¬ w.toInt > 0xFFFF := by
    have hlt := w.toInt_lt
    omega
  rw [carryFlag, decide_eq_false hbound, Bool.or_false, BitVec.msb_eq_toInt]

/-- A difference of two words lies below 0 exactly on an unsigned borrow, and never above 0xFFFF. -/
theorem carryFlag_sub (dest src : Word) : carryFlag (dest.toNat - src.toNat) = decide (dest.toNat < src.toNat) := by
  have hlt := dest.isLt
  have hbound : ¬ (dest.toNat - src.toNat : Int) > 0xFFFF := by omega
  have hborrow : (dest.toNat - src.toNat : Int) < 0 ↔ dest.toNat < src.toNat := by omega
  simp only [carryFlag, hbound, hborrow, decide_false, Bool.or_false]

theorem ofNat_eq_zero_iff (n : Nat) : BitVec.ofNat 16 n = 0 ↔ n % 65536 = 0 := by
  rw [← BitVec.toNat_inj, BitVec.toNat_ofNat]
  rfl

theorem word_eq_zero_iff (w : Word) : w = 0 ↔ w.toNat = 0 := by
  rw [← BitVec.toNat_inj]
  rfl

/-! ### The flags, from what is known of the result (42_alu.md R142 to R145) -/

section
variable {op : AluOp} {dest src : Word}

theorem aluFlags_of_low16 {r16 : Word} (h : low16 (aluResult op dest src) = r16) :
    aluFlags op dest src =
      ⟨overflowFlag op dest src r16, carryFlag (aluResult op dest src), decide (r16 = 0), r16.msb⟩ := by
  subst h
  rfl

/-- Where the result is a number that fits in a word, carry is false, and zero and sign are facts of that number. -/
theorem aluFlags_of_fits {n : Nat} (h : aluResult op dest src = n) (hn : n ≤ 0xFFFF) :
    aluFlags op dest src =
      ⟨overflowFlag op dest src (BitVec.ofNat 16 n), false, decide (n = 0), decide (0x8000 ≤ n)⟩ := by
  have hlow : low16 (aluResult op dest src) = BitVec.ofNat 16 n := by rw [h, low16_natCast]
  have hmod : n % 2 ^ 16 = n := Nat.mod_eq_of_lt (Nat.lt_succ_of_le hn)
  rw [aluFlags_of_low16 hlow, h, carryFlag_natCast, BitVec.msb_eq_decide, BitVec.toNat_ofNat, hmod]
  simp only [word_eq_zero_iff, BitVec.toNat_ofNat, hmod, decide_eq_false (Nat.not_lt.2 hn)]

theorem aluFlags_of_word {w : Word} (h : aluResult op dest src = w.toNat) :
    aluFlags op dest src = ⟨overflowFlag op dest src w, false, decide (w = 0), w.msb⟩ := by
  have hlow : low16 (aluResult op dest src) = w := by rw [h, low16_toNat]
  rw [aluFlags_of_low16 hlow, h, carryFlag_toNat]

end

/-! ### Sums, differences and products (42_alu.md R146 to R148, R156) -/

section
variable (dest src : Word)

theorem aluResult_add : aluResult .add dest src = (dest.toNat + src.toNat : Nat) := rfl

theorem aluStored_add : aluStored .add dest src = BitVec.ofNat 16 (dest.toNat + src.toNat) := by
  rw [aluStored_of_ne_div (by simp), aluResult_add, low16_natCast]

theorem aluFlags_add :
    aluFlags .add dest src =
      ⟨dest.msb == src.msb && (dest + src).msb != dest.msb, decide (dest.toNat + src.toNat > 0xFFFF),
        decide (dest + src = 0), (dest + src).msb⟩ := by
  have hlow : low16 (aluResult .add dest src) = dest + src := by
    rw [aluResult_add, low16_natCast, BitVec.add_def]
  rw [aluFlags_of_low16 hlow, aluResult_add, carryFlag_natCast, overflowFlag]

theorem aluResult_sub : aluResult .sub dest src = dest.toNat - src.toNat := rfl

theorem aluStored_sub : aluStored .sub dest src = BitVec.ofInt 16 (dest.toNat - src.toNat) := by
  rw [aluStored_of_ne_div (by simp), aluResult_sub, low16]

theorem aluFlags_sub :
    aluFlags .sub dest src =
      ⟨(!dest.msb && src.msb && (dest - src).msb) || (dest.msb && !src.msb && !(dest - src).msb),
        decide (dest.toNat < src.toNat), decide (dest - src = 0), (dest - src).msb⟩ := by
  have hlow : low16 (aluResult .sub dest src) = dest - src := by rw [aluResult_sub, low16_sub]
  rw [aluFlags_of_low16 hlow, aluResult_sub, carryFlag_sub, overflowFlag]

theorem aluFlags_cmp_eq_sub : aluFlags .cmp dest src = aluFlags .sub dest src := rfl

theorem aluResult_mul : aluResult .mul dest src = (dest.toNat * src.toNat : Nat) := rfl

theorem aluStored_mul : aluStored .mul dest src = BitVec.ofNat 16 (dest.toNat * src.toNat) := by
  rw [aluStored_of_ne_div (by simp), aluResult_mul, low16_natCast]

theorem aluFlags_mul :
    aluFlags .mul dest src =
      ⟨false, decide (dest.toNat * src.toNat > 0xFFFF), decide (dest.toNat * src.toNat % 65536 = 0),
        (dest * src).msb⟩ := by
  have hlow : low16 (aluResult .mul dest src) = BitVec.ofNat 16 (dest.toNat * src.toNat) := by
    rw [aluResult_mul, low16_natCast]
  have hword : dest * src = BitVec.ofNat 16 (dest.toNat * src.toNat) := by simp [BitVec.ofNat_mul]
  rw [aluFlags_of_low16 hlow, aluResult_mul, carryFlag_natCast, overflowFlag, hword]
  simp only [ofNat_eq_zero_iff]

end

/-! ### Quotients (42_alu.md R149) -/

section
variable {dest src : Word}

theorem aluResult_div (h : src ≠ 0) : aluResult .div dest src = (dest.toNat / src.toNat : Nat) := by
  rw [aluResult, if_neg h, destValue_unsigned (by simp), srcValue_unsigned, Int.ofNat_tdiv]

theorem aluStored_div (h : src ≠ 0) : aluStored .div dest src = BitVec.ofNat 16 (dest.toNat / src.toNat) := by
  rw [aluStored, if_neg fun hdiv => h hdiv.2, aluResult_div h, low16_natCast]

theorem aluFlags_div (h : src ≠ 0) :
    aluFlags .div dest src =
      ⟨false, false, decide (dest.toNat < src.toNat), decide (0x8000 ≤ dest.toNat / src.toNat)⟩ := by
  have hfits : dest.toNat / src.toNat ≤ 0xFFFF := (Nat.div_le_self _ _).trans (Nat.le_of_lt_succ dest.isLt)
  have hsrc : src.toNat ≠ 0 := mt (word_eq_zero_iff src).2 h
  rw [aluFlags_of_fits (aluResult_div h) hfits, overflowFlag]
  simp only [Nat.div_eq_zero_iff, hsrc, false_or]

theorem aluStored_div_zero (dest : Word) : aluStored .div dest 0 = params.div0Reg := if_pos ⟨rfl, rfl⟩

/-- The flags are those of 0xFFFF, whatever DIV0_REG is. -/
theorem aluFlags_div_zero (dest : Word) : aluFlags .div dest 0 = ⟨false, false, false, true⟩ := by
  have hres : aluResult .div dest 0 = (0xFFFF : Nat) := by rw [aluResult, if_pos rfl]; rfl
  exact aluFlags_of_fits hres (Nat.le_refl _)

end

/-! ### The bitwise operators (42_alu.md R150 to R152, R157) -/

section
variable (dest src : Word)

theorem aluStored_and : aluStored .and dest src = dest &&& src := low16_toNat (dest &&& src)

theorem aluStored_or : aluStored .or dest src = dest ||| src := low16_toNat (dest ||| src)

theorem aluStored_xor : aluStored .xor dest src = dest ^^^ src := low16_toNat (dest ^^^ src)

theorem aluFlags_and :
    aluFlags .and dest src = ⟨false, false, decide (dest &&& src = 0), (dest &&& src).msb⟩ :=
  aluFlags_of_word rfl

theorem aluFlags_or :
    aluFlags .or dest src = ⟨false, false, decide (dest = 0 ∧ src = 0), (dest ||| src).msb⟩ := by
  have hzero : dest ||| src = 0 ↔ dest = 0 ∧ src = 0 := BitVec.or_eq_zero_iff
  simp only [← hzero]
  exact aluFlags_of_word rfl

theorem aluFlags_xor :
    aluFlags .xor dest src = ⟨false, false, decide (dest = src), (dest ^^^ src).msb⟩ := by
  have hzero : dest ^^^ src = 0 ↔ dest = src := BitVec.xor_eq_zero_iff
  simp only [← hzero]
  exact aluFlags_of_word rfl

theorem aluFlags_tst_eq_and : aluFlags .tst dest src = aluFlags .and dest src := rfl

/-! ### Shifts (42_alu.md R153 to R155)

The exponent the model stops at 16 gives the same low word, the same carry and the same quotient as the whole count,
because 2 to the 16 is the number of words. -/

theorem mul_two_pow_min_mod (d n : Nat) : d * 2 ^ min n 16 % 65536 = d * 2 ^ n % 65536 := by
  obtain hn | hn := Nat.le_total n 16
  · rw [Nat.min_eq_left hn]
  · have hdvd : 2 ^ 16 ∣ d * 2 ^ n := (pow_dvd_pow 2 hn).mul_left d
    rw [Nat.min_eq_right hn]
    exact (Nat.mul_mod_left d (2 ^ 16)).trans (Nat.mod_eq_zero_of_dvd hdvd).symm

theorem mul_two_pow_min_gt_iff (d n : Nat) : d * 2 ^ min n 16 > 0xFFFF ↔ d * 2 ^ n > 0xFFFF := by
  obtain hn | hn := Nat.le_total n 16
  · rw [Nat.min_eq_left hn]
  · have hpow : 2 ^ 16 ≤ 2 ^ n := Nat.pow_le_pow_right (by decide) hn
    have hmul : d * 2 ^ 16 ≤ d * 2 ^ n := Nat.mul_le_mul_left d hpow
    rw [Nat.min_eq_right hn]
    obtain rfl | hd := Nat.eq_zero_or_pos d
    · simp
    · omega

/-- An integer below 2 to the 16 in size has quotient 0 or -1 by every power from 2 to the 16 up. -/
theorem ediv_two_pow_min {d : Int} (hlo : -2 ^ 16 ≤ d) (hhi : d < 2 ^ 16) (n : Nat) :
    d / 2 ^ min n 16 = d / 2 ^ n := by
  obtain hn | hn := Nat.le_total n 16
  · rw [Nat.min_eq_left hn]
  · have hpow : (2 : Int) ^ 16 ≤ 2 ^ n := pow_le_pow_right₀ (by decide) hn
    rw [Nat.min_eq_right hn]
    obtain hd | hd := le_or_gt 0 d
    · rw [Int.ediv_eq_zero_of_lt hd hhi, Int.ediv_eq_zero_of_lt hd (hhi.trans_le hpow)]
    · rw [Int.ediv_eq_neg_one_of_neg_of_le hd (by omega), Int.ediv_eq_neg_one_of_neg_of_le hd (by omega)]

theorem aluResult_shl : aluResult .shl dest src = (dest.toNat * 2 ^ min src.toNat 16 : Nat) := by
  rw [aluResult, destValue_unsigned (by simp), shiftFactor_eq]
  norm_cast

theorem low16_aluResult_shl :
    low16 (aluResult .shl dest src) = BitVec.ofNat 16 (dest.toNat * 2 ^ src.toNat) := by
  apply BitVec.eq_of_toNat_eq
  rw [aluResult_shl, low16_natCast, BitVec.toNat_ofNat, BitVec.toNat_ofNat]
  exact mul_two_pow_min_mod dest.toNat src.toNat

/-- The carry of the whole power: a power from 2 to the 16 up exceeds a word unless it multiplies 0. -/
theorem carryFlag_aluResult_shl :
    carryFlag (aluResult .shl dest src) = decide (dest.toNat * 2 ^ src.toNat > 0xFFFF) := by
  simp only [aluResult_shl, carryFlag_natCast, mul_two_pow_min_gt_iff]

theorem aluStored_shl : aluStored .shl dest src = BitVec.ofNat 16 (dest.toNat * 2 ^ src.toNat) := by
  rw [aluStored_of_ne_div (by simp), low16_aluResult_shl]

theorem aluFlags_shl :
    aluFlags .shl dest src =
      ⟨false, decide (dest.toNat * 2 ^ src.toNat > 0xFFFF), decide (dest.toNat * 2 ^ src.toNat % 65536 = 0),
        (BitVec.ofNat 16 (dest.toNat * 2 ^ src.toNat)).msb⟩ := by
  rw [aluFlags_of_low16 (low16_aluResult_shl dest src), carryFlag_aluResult_shl, overflowFlag]
  simp only [ofNat_eq_zero_iff]

theorem fdiv_shiftFactor {d : Int} (hlo : -2 ^ 16 ≤ d) (hhi : d < 2 ^ 16) :
    d.fdiv (shiftFactor src) = d / 2 ^ src.toNat := by
  have hpos : (0 : Int) ≤ 2 ^ min src.toNat 16 := by positivity
  rw [shiftFactor_eq, Int.fdiv_eq_ediv_of_nonneg d hpos, ediv_two_pow_min hlo hhi]

theorem aluResult_shra : aluResult .shra dest src = (dest.sshiftRight src.toNat).toInt := by
  have hlo : -2 ^ 16 ≤ dest.toInt := by
    have h := dest.le_toInt
    omega
  have hhi : dest.toInt < 2 ^ 16 := by
    have h := dest.toInt_lt
    omega
  rw [aluResult, destValue_shra, fdiv_shiftFactor src hlo hhi, BitVec.toInt_sshiftRight, Int.shiftRight_eq_div_pow]
  norm_cast

theorem aluResult_shra_eq_fdiv : aluResult .shra dest src = dest.toInt.fdiv (2 ^ src.toNat) := by
  have hpos : (0 : Int) ≤ 2 ^ src.toNat := by positivity
  rw [aluResult_shra, BitVec.toInt_sshiftRight, Int.shiftRight_eq_div_pow, Int.fdiv_eq_ediv_of_nonneg _ hpos]
  norm_cast

theorem aluStored_shra : aluStored .shra dest src = BitVec.ofInt 16 (dest.toInt.fdiv (2 ^ src.toNat)) := by
  rw [aluStored_of_ne_div (by simp), aluResult_shra_eq_fdiv, low16]

theorem aluFlags_shra :
    aluFlags .shra dest src =
      ⟨false, dest.msb, decide (dest.toInt.fdiv (2 ^ src.toNat) = 0), dest.msb⟩ := by
  have hlow : low16 (aluResult .shra dest src) = dest.sshiftRight src.toNat := by
    rw [aluResult_shra, low16_toInt]
  have hzero : dest.toInt.fdiv (2 ^ src.toNat) = 0 ↔ dest.sshiftRight src.toNat = 0 := by
    rw [← aluResult_shra_eq_fdiv, aluResult_shra, ← BitVec.toInt_inj]
    rfl
  rw [aluFlags_of_low16 hlow, aluResult_shra, carryFlag_toInt, BitVec.msb_sshiftRight, overflowFlag]
  simp only [hzero]

theorem aluResult_shrl : aluResult .shrl dest src = (dest.toNat / 2 ^ src.toNat : Nat) := by
  have hhi : (dest.toNat : Int) < 2 ^ 16 := by
    have hlt := dest.isLt
    omega
  rw [aluResult, destValue_unsigned (by simp)]
  push_cast
  exact fdiv_shiftFactor src (by omega) hhi

theorem aluStored_shrl : aluStored .shrl dest src = BitVec.ofNat 16 (dest.toNat / 2 ^ src.toNat) := by
  rw [aluStored_of_ne_div (by simp), aluResult_shrl, low16_natCast]

theorem aluFlags_shrl :
    aluFlags .shrl dest src =
      ⟨false, false, decide (dest.toNat / 2 ^ src.toNat = 0), decide (0x8000 ≤ dest.toNat / 2 ^ src.toNat)⟩ := by
  have hfits : dest.toNat / 2 ^ src.toNat ≤ 0xFFFF := (Nat.div_le_self _ _).trans (Nat.le_of_lt_succ dest.isLt)
  rw [aluFlags_of_fits (aluResult_shrl dest src) hfits, overflowFlag]

/-! ### Signed overflow (42_alu.md R142) -/

theorem overflow_aluFlags_add : (aluFlags .add dest src).overflow = dest.saddOverflow src := by
  rw [aluFlags_add, BitVec.saddOverflow_eq]
  rfl

theorem overflow_aluFlags_sub : (aluFlags .sub dest src).overflow = dest.ssubOverflow src := by
  rw [aluFlags_sub, BitVec.ssubOverflow_eq]

theorem saddOverflow_iff :
    dest.saddOverflow src = true ↔ dest.toInt + src.toInt < -32768 ∨ dest.toInt + src.toInt > 32767 := by
  simp only [BitVec.saddOverflow, Bool.or_eq_true, decide_eq_true_eq]
  omega

theorem ssubOverflow_iff :
    dest.ssubOverflow src = true ↔ dest.toInt - src.toInt < -32768 ∨ dest.toInt - src.toInt > 32767 := by
  simp only [BitVec.ssubOverflow, Bool.or_eq_true, decide_eq_true_eq]
  omega

theorem overflow_flagsLeft_eq_false {i : Instr} (s : State) (h : i.mnemonic ∉ [.add, .sub, .cmp]) :
    (flagsLeft i s).overflow = false := by
  cases i with
  | add | sub | cmp => simp [Instr.mnemonic] at h
  | _ => rfl

end

end Sys2Proof.Machine
end

section
/-! PROOFS. The statements about arithmetic and logic, settled. Each instruction is read by its opcode byte and has one
of the two shapes, with what its operator stores and the flags it leaves. -/
namespace Sys2Proof.Proofs
open Sys2Proof.Machine Sys2Proof.Statements

/-- Settles O28: the power the model caps stores the same word and leaves the same flags as the whole one. -/
theorem shlStoresTheMathematicalShift : Obligations.ShlStoresTheMathematicalShift :=
  ⟨fun _ => decode_of_opcode, fun _ _ _ => stores_of_exec_eq_aluStore rfl (aluStored_shl _ _) (aluFlags_shl _ _)⟩

/-- Settles O29: the quotient is the arithmetic shift of the word, which keeps bit 15. -/
theorem shraStoresTheFlooredQuotient : Obligations.ShraStoresTheFlooredQuotient :=
  ⟨fun _ => decode_of_opcode, fun _ _ _ => stores_of_exec_eq_aluStore rfl (aluStored_shra _ _) (aluFlags_shra _ _)⟩

/-- Settles O30: `dest` is below 2 to the 16, so the capped count gives the quotient of the whole one. -/
theorem shrlStoresTheUnsignedQuotient : Obligations.ShrlStoresTheUnsignedQuotient :=
  ⟨fun _ => decode_of_opcode, fun _ _ _ => stores_of_exec_eq_aluStore rfl (aluStored_shrl _ _) (aluFlags_shrl _ _)⟩

/-- Settles O33: the sign patterns of R142 are those of signed overflow. -/
theorem overflowFlagIsSignedOverflow : Obligations.OverflowFlagIsSignedOverflow := by
  refine ⟨fun reg1 reg2 s => ⟨_, exec_eq _ s, ?_⟩, fun reg1 reg2 s => ⟨_, _, exec_eq _ s, exec_eq _ s, ?_, rfl⟩,
    fun i s t _ hi hst => ?_⟩
  · show (aluFlags .add (s.reg reg1) (s.reg reg2)).overflow = true ↔ _
    rw [overflow_aluFlags_add, saddOverflow_iff]
  · show (aluFlags .sub (s.reg reg1) (s.reg reg2)).overflow = true ↔ _
    rw [overflow_aluFlags_sub, ssubOverflow_iff]
  · obtain rfl := exec_eq_next_iff.1 hst
    exact overflow_flagsLeft_eq_false s hi

/-- Settles O23. -/
theorem addStoresTheSum : Obligations.AddStoresTheSum :=
  ⟨fun _ => decode_of_opcode, fun _ _ _ => stores_of_exec_eq_aluStore rfl (aluStored_add _ _) (aluFlags_add _ _)⟩

/-- Settles O24. -/
theorem subStoresTheDifference : Obligations.SubStoresTheDifference :=
  ⟨fun _ => decode_of_opcode, fun _ _ _ => stores_of_exec_eq_aluStore rfl (aluStored_sub _ _) (aluFlags_sub _ _)⟩

/-- Settles O25. -/
theorem mulStoresTheLowHalf : Obligations.MulStoresTheLowHalf :=
  ⟨fun _ => decode_of_opcode, fun _ _ _ => stores_of_exec_eq_aluStore rfl (aluStored_mul _ _) (aluFlags_mul _ _)⟩

/-- Settles O26, for a divisor that is not 0 and for 0. -/
theorem divStoresTheQuotient : Obligations.DivStoresTheQuotient := by
  refine ⟨fun _ => decode_of_opcode, fun reg1 reg2 s => ⟨fun h => ?_, fun h => ?_⟩⟩
  · exact stores_of_exec_eq_aluStore rfl (aluStored_div h) (aluFlags_div h)
  · exact stores_of_exec_eq_aluStore rfl (by rw [h, aluStored_div_zero]) (by rw [h, aluFlags_div_zero])

/-- Settles O27. -/
theorem bitwiseOperatorsStoreTheirBits : Obligations.BitwiseOperatorsStoreTheirBits := by
  refine ⟨⟨fun _ => decode_of_opcode, fun _ _ _ => ?_⟩, ⟨fun _ => decode_of_opcode, fun _ _ _ => ?_⟩,
    ⟨fun _ => decode_of_opcode, fun _ _ _ => ?_⟩⟩
  · exact stores_of_exec_eq_aluStore rfl (aluStored_and _ _) (aluFlags_and _ _)
  · exact stores_of_exec_eq_aluStore rfl (aluStored_or _ _) (aluFlags_or _ _)
  · exact stores_of_exec_eq_aluStore rfl (aluStored_xor _ _) (aluFlags_xor _ _)

/-- Settles O31: two words are equal exactly where their difference is 0. -/
theorem cmpSetsTheFlagsOfSub : Obligations.CmpSetsTheFlagsOfSub := by
  refine ⟨fun _ => decode_of_opcode, fun reg1 reg2 s => ⟨tests_of_exec_eq_aluTest rfl ?_, ?_⟩⟩
  · rw [aluFlags_cmp_eq_sub, aluFlags_sub]
    simp only [sub_eq_zero]
  · exact ⟨_, _, exec_eq _ s, exec_eq _ s, aluFlags_cmp_eq_sub _ _⟩

/-- Settles O32. -/
theorem tstSetsTheFlagsOfAnd : Obligations.TstSetsTheFlagsOfAnd := by
  refine ⟨fun _ => decode_of_opcode, fun reg1 reg2 s => tests_of_exec_eq_aluTest rfl ?_⟩
  rw [aluFlags_tst_eq_and, aluFlags_and, BitVec.msb_and]

end Sys2Proof.Proofs
end

section
/-! PROOFS. The shape of the device instructions that put a port's answer in a register, and what COLOR and TIME
take of a wider value. -/
namespace Sys2Proof.Machine
open Sys2Proof.Statements

/-! ### The answering shape (43_io_timing_rnd.md R171, R174, R176) -/

/-- What a non-arithmetic instruction does that writes `r` in the state `u` a port's answer leaves: the
registers but `r` are as in `s`, and the devices are as in `u`. INPUT, TIME and RND differ in the port and the value. -/
theorem exec_of_written_setReg_answered {i : Instr} {s u : State} (harith : i.mnemonic ∉ arithmetic)
    (hstore : i.mnemonic ∉ [.stor, .stori, .push, .call]) {r : Reg} {v : Word} (hw : written i s = u.setReg r v)
    (hregs : SameRegs s u) :
    ∃ t, exec i s = .next t ∧ t.reg r = v ∧ SameRegsBut r s t ∧ SameMemory s t ∧ t.color = u.color ∧
      t.tref = u.tref ∧ t.haltRequest = u.haltRequest ∧ t.pixels = u.pixels ∧ t.clock = u.clock ∧
      t.draws = u.draws ∧ Ends (nextTarget i s) t := by
  have hreg (q : Reg) : (afterInstr i s).reg q = (u.setReg r v).reg q := by
    rw [← hw]
    rfl
  obtain ⟨hcolor, htref, hhalt, hpixels, hclock, hdraws⟩ : SameDevices u (written i s) := by
    rw [hw]
    exact u.sameDevices_setReg r v
  refine ⟨_, exec_eq i s, ?_, fun q hq => ?_, sameMemory_afterInstr s hstore, hcolor, htref, hhalt, hpixels, hclock,
    hdraws, ends_afterInstr s harith⟩
  · rw [hreg, State.reg_setReg_same]
  · rw [hreg, State.reg_setReg_ne _ hq, hregs q]

/-! ### Low parts (43_io_timing_rnd.md R172, R174) -/

/-- Masking a word to its low byte and dropping the rest is taking the low byte. -/
theorem setWidth_and_lowByteMask (v : Word) : (v &&& 0x00FF#16).setWidth 8 = v.extractLsb' 0 8 := by
  have hmask : (0x00FF#16).setWidth 8 = BitVec.allOnes 8 := by decide
  rw [BitVec.setWidth_and, hmask, BitVec.and_allOnes, BitVec.setWidth_eq_extractLsb' (by decide)]

/-- The difference of two 64-bit times modulo 65536 is that of the integers, also where it is negative: 65536 divides
2 to the 64. -/
theorem extractLsb'_sub_eq_ofInt (now ref : BitVec 64) :
    (now - ref).extractLsb' 0 16 = BitVec.ofInt 16 (now.toNat - ref.toNat) := by
  have href := ref.isLt
  apply BitVec.eq_of_toNat_eq
  rw [BitVec.extractLsb'_toNat, BitVec.toNat_sub, BitVec.toNat_ofInt, Nat.shiftRight_zero]
  omega

end Sys2Proof.Machine
end

section
/-! PROOFS. The statements about the devices, the timer and the random port, settled. Each instruction is read by its
opcode byte; three put a port's answer in a register, and three write device state alone. -/
namespace Sys2Proof.Proofs
open Sys2Proof.Machine Sys2Proof.Statements

/-- Settles O35. -/
theorem inputStoresThePortAnswer : Obligations.InputStoresThePortAnswer :=
  ⟨fun _ => decode_of_opcode, fun reg1 reg2 s =>
    exec_of_written_setReg_answered (i := .input reg1 reg2) (u := s.answered) (by simp [Instr.mnemonic, arithmetic])
      (by simp [Instr.mnemonic]) rfl s.reg_answered⟩

/-- Settles O36: the low byte is what the mask 0xFF leaves. -/
theorem colorKeepsTheLowByte : Obligations.ColorKeepsTheLowByte :=
  ⟨fun _ => decode_of_opcode, fun reg1 s => ⟨_, exec_eq (.color reg1) s, (setWidth_and_lowByteMask _).symm,
    fun _ => rfl, sameMemory_afterInstr s (by simp [Instr.mnemonic]), rfl, rfl, rfl, rfl, rfl,
    ends_afterInstr s (by simp [Instr.mnemonic, arithmetic])⟩⟩

/-- Settles O37. -/
theorem pixelAppendsItsEvent : Obligations.PixelAppendsItsEvent :=
  ⟨fun _ => decode_of_opcode, fun reg1 reg2 s => ⟨_, exec_eq (.pixel reg1 reg2) s, s.emit_pixels _, fun _ => rfl,
    sameMemory_afterInstr s (by simp [Instr.mnemonic]), rfl, rfl, rfl, rfl, rfl,
    ends_afterInstr s (by simp [Instr.mnemonic, arithmetic])⟩⟩

/-- Settles O38: the low word of the 64-bit difference is the difference modulo 65536. -/
theorem timeStoresTheElapsedMilliseconds : Obligations.TimeStoresTheElapsedMilliseconds := by
  refine ⟨fun _ => decode_of_opcode, fun reg1 s => ?_⟩
  rw [← extractLsb'_sub_eq_ofInt]
  exact exec_of_written_setReg_answered (i := .time reg1) (u := s.clockRead) (by simp [Instr.mnemonic, arithmetic])
    (by simp [Instr.mnemonic]) rfl s.reg_clockRead

/-- Settles O39. -/
theorem timerstSetsTheReference : Obligations.TimerstSetsTheReference :=
  ⟨fun _ => decode_of_opcode, fun s => ⟨_, exec_eq .timerst s, rfl, s.reg_clockRead,
    sameMemory_afterInstr s (by simp [Instr.mnemonic]), rfl, rfl, rfl, s.clockRead_clock, s.clockRead_draws,
    ends_afterInstr s (by simp [Instr.mnemonic, arithmetic])⟩⟩

/-- Settles O40. -/
theorem rndStoresTheDraw : Obligations.RndStoresTheDraw :=
  ⟨fun _ => decode_of_opcode, fun reg1 s =>
    exec_of_written_setReg_answered (i := .rnd reg1) (u := s.answered) (by simp [Instr.mnemonic, arithmetic])
      (by simp [Instr.mnemonic]) rfl s.reg_answered⟩

end Sys2Proof.Proofs
end

section
/-! PROOFS. The shape of a jump, and what the flags a CMP leaves say of the orders of its operands. -/
namespace Sys2Proof.Machine
open Sys2Proof.Statements

/-! ### The shape of a jump (44_control_flow.md R180, R181) -/

/-- JMP and JMPI redirect always; a conditional jump redirects to its address or to `pc + 4`. -/
theorem goesTo_of_exec_eq_redirect {i : Instr} {s : State} {target : Word} (hexec : exec i s = s.redirect target) :
    GoesTo i s target :=
  ⟨_, hexec.trans (s.redirect_eq target), ⟨rfl, rfl⟩, fun _ => rfl, fun _ => rfl, rfl, rfl, rfl, rfl, rfl, rfl⟩

/-- A word with the opcode byte of a jump in format A is read as that jump, and the jump tests `cond`, the Boolean form
of `holds`, on the flags as they stand (44_control_flow.md R182). -/
theorem conditionalJump_of_exec_eq_jumpIf {m : Mnemonic} {mk : Word → Instr} {cond : Flags → Bool}
    {holds : Flags → Prop} (hread : ReadsA m mk) (hexec : ∀ addr s, exec (mk addr) s = s.jumpIf cond addr)
    (hcond : ∀ f, cond f = true ↔ holds f) : ConditionalJump m mk holds := by
  refine ⟨hread, fun addr s => ⟨fun h => ?_, fun h => ?_⟩⟩
  · exact goesTo_of_exec_eq_redirect ((hexec addr s).trans (if_pos ((hcond s.flags).2 h)))
  · exact goesTo_of_exec_eq_redirect ((hexec addr s).trans (if_neg (mt (hcond s.flags).1 h)))

/-- A conditional jump decides by any fact `p` that its condition on the flags before amounts to. -/
theorem goesTo_ite_of_conditionalJump {m : Mnemonic} {mk : Word → Instr} {holds : Flags → Prop}
    (hjump : ConditionalJump m mk holds) {s : State} {p : Prop} [Decidable p] (hp : holds s.flags ↔ p)
    (addr : Word) : GoesTo (mk addr) s (if p then addr else s.pc + 4) := by
  obtain ⟨htaken, hnot⟩ := hjump.2 addr s
  split
  · next h => exact htaken (hp.2 h)
  · next h => exact hnot (mt hp.1 h)

/-! ### The conditions, read as propositions (44_control_flow.md R185 to R198) -/

section
variable (f : Flags)

theorem condJne_iff : condJne f = true ↔ f.zero = false := by simp [condJne]

theorem condJae_iff : condJae f = true ↔ f.carry = false := by simp [condJae]

theorem condJno_iff : condJno f = true ↔ f.overflow = false := by simp [condJno]

theorem condJns_iff : condJns f = true ↔ f.sign = false := by simp [condJns]

theorem condJg_iff : condJg f = true ↔ f.zero = false ∧ f.sign = f.overflow := by simp [condJg]

theorem condJge_iff : condJge f = true ↔ f.sign = f.overflow := by simp [condJge]

theorem condJa_iff : condJa f = true ↔ f.carry = false ∧ f.zero = false := by simp [condJa]

theorem condJl_iff : condJl f = true ↔ f.sign ≠ f.overflow := by simp [condJl]

theorem condJle_iff : condJle f = true ↔ f.sign ≠ f.overflow ∨ f.zero = true := by simp [condJle]

theorem condJbe_iff : condJbe f = true ↔ f.carry = true ∨ f.zero = true := by simp [condJbe]

end

/-! ### The flags of a comparison (44_control_flow.md R199)

Zero is equality, carry the unsigned order, and sign against overflow the signed order; the other conditions combine
these three. -/

section
variable (dest src : Word)

theorem zero_aluFlags_cmp_iff : (aluFlags .cmp dest src).zero = true ↔ dest = src := by
  rw [aluFlags_cmp_eq_sub, aluFlags_sub, decide_eq_true_eq, sub_eq_zero]

theorem not_zero_aluFlags_cmp_iff : (aluFlags .cmp dest src).zero = false ↔ dest ≠ src := by
  rw [← Bool.not_eq_true, zero_aluFlags_cmp_iff]

theorem carry_aluFlags_cmp_iff : (aluFlags .cmp dest src).carry = true ↔ dest.toNat < src.toNat := by
  rw [aluFlags_cmp_eq_sub, aluFlags_sub, decide_eq_true_eq]

theorem not_carry_aluFlags_cmp_iff : (aluFlags .cmp dest src).carry = false ↔ dest.toNat ≥ src.toNat := by
  rw [← Bool.not_eq_true, carry_aluFlags_cmp_iff, Nat.not_lt]

theorem carry_or_zero_aluFlags_cmp_iff :
    (aluFlags .cmp dest src).carry = true ∨ (aluFlags .cmp dest src).zero = true ↔ dest.toNat ≤ src.toNat := by
  rw [carry_aluFlags_cmp_iff, zero_aluFlags_cmp_iff, ← BitVec.toNat_inj, Nat.le_iff_lt_or_eq]

theorem not_carry_and_not_zero_aluFlags_cmp_iff :
    (aluFlags .cmp dest src).carry = false ∧ (aluFlags .cmp dest src).zero = false ↔ dest.toNat > src.toNat := by
  rw [not_carry_aluFlags_cmp_iff, not_zero_aluFlags_cmp_iff, Ne, ← BitVec.toNat_inj]
  omega

/-- Bit 15 of a difference is the sign of the difference where that fits in a word, and the opposite where it does not
(D14, log 14). -/
theorem msb_sub_iff :
    (dest - src).msb = true ↔
      (-32768 ≤ dest.toInt - src.toInt ∧ dest.toInt < src.toInt) ∨ dest.toInt - src.toInt > 32767 := by
  have hdestLower := dest.le_toInt
  have hdestUpper := dest.toInt_lt
  have hsrcLower := src.le_toInt
  have hsrcUpper := src.toInt_lt
  rw [BitVec.msb_eq_toInt, decide_eq_true_eq, BitVec.toInt_sub, Int.bmod_def]
  split
  · omega
  · omega

theorem sign_aluFlags_cmp : (aluFlags .cmp dest src).sign = (dest - src).msb := by
  rw [aluFlags_cmp_eq_sub, aluFlags_sub]

/-- Overflow says where bit 15 of the difference is the opposite of its sign, so the two differ on the signed order. -/
theorem sign_ne_overflow_aluFlags_cmp_iff :
    (aluFlags .cmp dest src).sign ≠ (aluFlags .cmp dest src).overflow ↔ dest.toInt < src.toInt := by
  rw [sign_aluFlags_cmp, aluFlags_cmp_eq_sub, overflow_aluFlags_sub, Ne, Bool.eq_iff_iff, msb_sub_iff,
    ssubOverflow_iff]
  omega

theorem sign_eq_overflow_aluFlags_cmp_iff :
    (aluFlags .cmp dest src).sign = (aluFlags .cmp dest src).overflow ↔ dest.toInt ≥ src.toInt := by
  rw [← not_iff_not, ← Ne, sign_ne_overflow_aluFlags_cmp_iff, Int.not_le]

theorem sign_ne_overflow_or_zero_aluFlags_cmp_iff :
    (aluFlags .cmp dest src).sign ≠ (aluFlags .cmp dest src).overflow ∨ (aluFlags .cmp dest src).zero = true ↔
      dest.toInt ≤ src.toInt := by
  rw [sign_ne_overflow_aluFlags_cmp_iff, zero_aluFlags_cmp_iff, ← BitVec.toInt_inj, Int.le_iff_lt_or_eq]

theorem not_zero_and_sign_eq_overflow_aluFlags_cmp_iff :
    (aluFlags .cmp dest src).zero = false ∧ (aluFlags .cmp dest src).sign = (aluFlags .cmp dest src).overflow ↔
      dest.toInt > src.toInt := by
  rw [not_zero_aluFlags_cmp_iff, sign_eq_overflow_aluFlags_cmp_iff, Ne, ← BitVec.toInt_inj]
  omega

end

end Sys2Proof.Machine
end

section
/-! PROOFS. The statements about control flow, settled. What the jumps do after a CMP follows from what each does in
every state. -/
namespace Sys2Proof.Proofs
open Sys2Proof.Machine Sys2Proof.Statements

/-- Settles O45: each condition is its flag or the negation of it. -/
theorem singleFlagJumpsFollowTheirFlag : Obligations.SingleFlagJumpsFollowTheirFlag := by
  refine ⟨?jeq, ?jne, ?jae, ?jb, ?jo, ?jno, ?js, ?jns⟩ <;>
    refine conditionalJump_of_exec_eq_jumpIf (fun _ => decode_of_opcode) (fun _ _ => rfl) fun f => ?_
  case jeq | jb | jo | js => exact Iff.rfl
  case jne => exact condJne_iff f
  case jae => exact condJae_iff f
  case jno => exact condJno_iff f
  case jns => exact condJns_iff f

/-- Settles O46: each condition, read as a proposition, is the one stated. -/
theorem comparisonJumpsFollowTheirFlags : Obligations.ComparisonJumpsFollowTheirFlags := by
  refine ⟨?jg, ?jge, ?ja, ?jl, ?jle, ?jbe⟩ <;>
    refine conditionalJump_of_exec_eq_jumpIf (fun _ => decode_of_opcode) (fun _ _ => rfl) fun f => ?_
  case jg => exact condJg_iff f
  case jge => exact condJge_iff f
  case ja => exact condJa_iff f
  case jl => exact condJl_iff f
  case jle => exact condJle_iff f
  case jbe => exact condJbe_iff f

/-- Settles O34: each jump follows its flags, and the flags a CMP leaves say the order. -/
theorem jumpsAfterCmpDecideTheOrderings : Obligations.JumpsAfterCmpDecideTheOrderings := by
  obtain ⟨jeq, jne, jae, jb, -⟩ := singleFlagJumpsFollowTheirFlag
  obtain ⟨jg, jge, ja, jl, jle, jbe⟩ := comparisonJumpsFollowTheirFlags
  intro reg1 reg2 addr s
  refine ⟨_, exec_eq (.cmp reg1 reg2) s, ?jeq, ?jne, ?jb, ?jbe, ?ja, ?jae, ?jl, ?jle, ?jg, ?jge⟩
  case jeq => exact goesTo_ite_of_conditionalJump jeq (zero_aluFlags_cmp_iff _ _) addr
  case jne => exact goesTo_ite_of_conditionalJump jne (not_zero_aluFlags_cmp_iff _ _) addr
  case jb => exact goesTo_ite_of_conditionalJump jb (carry_aluFlags_cmp_iff _ _) addr
  case jbe => exact goesTo_ite_of_conditionalJump jbe (carry_or_zero_aluFlags_cmp_iff _ _) addr
  case ja => exact goesTo_ite_of_conditionalJump ja (not_carry_and_not_zero_aluFlags_cmp_iff _ _) addr
  case jae => exact goesTo_ite_of_conditionalJump jae (not_carry_aluFlags_cmp_iff _ _) addr
  case jl => exact goesTo_ite_of_conditionalJump jl (sign_ne_overflow_aluFlags_cmp_iff _ _) addr
  case jle => exact goesTo_ite_of_conditionalJump jle (sign_ne_overflow_or_zero_aluFlags_cmp_iff _ _) addr
  case jg => exact goesTo_ite_of_conditionalJump jg (not_zero_and_sign_eq_overflow_aluFlags_cmp_iff _ _) addr
  case jge => exact goesTo_ite_of_conditionalJump jge (sign_eq_overflow_aluFlags_cmp_iff _ _) addr

/-- Settles O43. -/
theorem jmpGoesToTheRegister : Obligations.JmpGoesToTheRegister :=
  ⟨fun _ => decode_of_opcode, fun _ _ => goesTo_of_exec_eq_redirect rfl⟩

/-- Settles O44. -/
theorem jmpiGoesToTheAddress : Obligations.JmpiGoesToTheAddress :=
  ⟨fun _ => decode_of_opcode, fun _ _ => goesTo_of_exec_eq_redirect rfl⟩

/-- Settles O47, by counting over the 16 combinations. -/
theorem takenCountsOfTheTruthTable : Obligations.TakenCountsOfTheTruthTable := by
  unfold Obligations.TakenCountsOfTheTruthTable
  decide

end Sys2Proof.Proofs
end

section
/-! PROOFS. What NOP does, and that an unknown opcode byte at the pointer does the same. -/
namespace Sys2Proof.Machine
open Sys2Proof.Statements

/-! ### The opcode byte of the fetch (30_encoding.md R81, R91, R92) -/

theorem opcode_wordOfBytes (b0 b1 b2 b3 : Byte) : (fieldsOf (wordOfBytes b0 b1 b2 b3)).opcode = b0 := by
  ext i hi
  simp only [fieldsOf, wordOfBytes, BitVec.getElem_extractLsb', BitVec.getLsbD_append]
  interval_cases i <;> rfl

theorem mnemonicOf_eq_none_of_forall_ne {op : Byte} (h : ∀ m, opcodeOf m ≠ op) : mnemonicOf op = none :=
  Option.eq_none_iff_forall_ne_some.2 fun m hm => h m (opcodeOf_of_mnemonicOf hm)

/-- The byte at the pointer alone decides that an opcode is unknown, whatever the next three bytes are. -/
theorem decode_fetchWord_of_unknown {s : State} (h : ∀ m, opcodeOf m ≠ s.byteAt s.pc) :
    decode s.fetchWord = .unknown (fieldsOf s.fetchWord).opcode := by
  have hop : (fieldsOf s.fetchWord).opcode = s.byteAt s.pc := opcode_wordOfBytes _ _ _ _
  rw [decode_eq_unknown_iff, hop]
  exact mnemonicOf_eq_none_of_forall_ne h

/-! ### NOP and its like (45_nop_unknown.md R200, R201) -/

/-- NOP is a jump to the instruction behind it. -/
theorem goesTo_nop (s : State) : GoesTo .nop s (s.pc + 4) := goesTo_of_exec_eq_redirect rfl

theorem execUnknown_eq_exec_nop (s : State) : execUnknown s = exec .nop s := rfl

theorem step_eq_exec_nop_of_unknown {s : State} (hrun : s.haltRequest = false)
    (h : ∀ m, opcodeOf m ≠ s.byteAt s.pc) : step s = exec .nop s :=
  (step_of_decode_unknown hrun (decode_fetchWord_of_unknown h)).trans (execUnknown_eq_exec_nop s)

end Sys2Proof.Machine
end

section
/-! PROOFS. The statements about NOP, the unknown opcodes and the step that runs what it decodes, settled. -/
namespace Sys2Proof.Proofs
open Sys2Proof.Machine Sys2Proof.Statements

/-- Settles O48. -/
theorem nopOnlyAdvances : Obligations.NopOnlyAdvances := ⟨fun _ => decode_of_opcode, goesTo_nop⟩

/-- Settles O6: the four bytes at the pointer, the first the most significant, are the word the step fetches. -/
theorem stepRunsTheDecodedInstruction : Obligations.StepRunsTheDecodedInstruction :=
  fun _ _ hrun hdecode => step_of_decode_instr hrun hdecode

/-- Settles O7: the step is that of a NOP. -/
theorem stepRunsUnknownOpcodeAsNoOp : Obligations.StepRunsUnknownOpcodeAsNoOp := by
  intro s hrun hop
  rw [step_eq_exec_nop_of_unknown hrun hop]
  exact goesTo_nop s

end Sys2Proof.Proofs
end

section
/-! PROOFS. The halt request between two steps, the clock port over steps and loads, and the grid of the display. -/
namespace Sys2Proof.Machine

/-! ### The halt request (60_exceptions.md R222, R225) -/

theorem step_of_haltRequest {s : State} (h : s.haltRequest = true) : step s = .next s := by
  simp [step, h]

/-- The halt request leaves no trace once the host calls for more. -/
theorem State.callForMore_raiseHalt {s : State} (h : s.haltRequest = false) : s.raiseHalt.callForMore = s := by
  cases s
  cases h
  rfl

/-! ### The clock port (60_exceptions.md R219) -/

/-- Only TIME and TIMERST write the last answer, and with the port's next one. -/
theorem State.clock_le_written (i : Instr) (s : State) : s.clock ≤ (written i s).clock := by
  cases i with
  | time | timerst => exact s.clock_le_nowMillis
  | _ => exact BitVec.le_refl _

theorem State.clock_le_of_step {s t : State} (h : step s = .next t) : s.clock ≤ t.clock := by
  obtain ⟨-, hs⟩ | ⟨-, i, hs⟩ := step_eq_next_cases s
  · cases hs.symm.trans h
    exact BitVec.le_refl _
  · cases hs.symm.trans h
    exact s.clock_le_written i

theorem State.clock_of_load {s t : State} {image : List Byte} (h : s.load image = some t) :
    t.clock = s.nowMillis := by
  unfold State.load at h
  split at h
  · cases h
    rfl
  · cases h

/-! ### The display (60_exceptions.md R218) -/

theorem onGrid_iff {x y : Word} : onGrid x y = true ↔ x.toNat ≤ 255 ∧ y.toNat ≤ 191 := by
  simp [onGrid, BitVec.le_def]

/-- The last event at a coordinate of the grid is the one that shows. -/
theorem shownAt_append_singleton (events : List PixelEvent) (e : PixelEvent) (x y : Word) :
    shownAt x y (events ++ [e]) =
      if onGrid e.px e.py ∧ e.px = x ∧ e.py = y then some e.c else shownAt x y events := by
  rw [shownAt, List.reverse_append, List.reverse_singleton, List.singleton_append]
  by_cases h : onGrid e.px e.py ∧ e.px = x ∧ e.py = y
  · rw [if_pos h, List.find?_cons_of_pos (by simpa [and_assoc] using h), Option.map_some]
  · rw [if_neg h, List.find?_cons_of_neg (by simpa [and_assoc] using h), shownAt]

end Sys2Proof.Machine
end

section
/-! PROOFS. The statements about exceptions, the halt request, the clock port and the display, settled. -/
namespace Sys2Proof.Proofs
open Sys2Proof.Machine

/-- Settles O9: a halted core stays, and every instruction completes. -/
theorem stepNeverRaisesAnException : Obligations.StepNeverRaisesAnException := step_completes

/-- Settles O41: the last answer is replaced by the port's next one alone, which is never below it. -/
theorem clockNeverRunsBackwards : Obligations.ClockNeverRunsBackwards := by
  refine ⟨fun s t hst => ⟨State.clock_le_of_step hst, s.clock_le_nowMillis, t.clock_le_nowMillis⟩,
    fun s t image hl => (State.clock_of_load hl).symm, fun s t reg1 hread => ?_⟩
  rcases hread with h | h
  · obtain rfl := exec_eq_next_iff.1 h
    rfl
  · obtain rfl := exec_eq_next_iff.1 h
    rfl

/-- Settles O42: an event at `(x, y)` is on the grid just when `(x, y)` is. -/
theorem laterEventReplacesTheColour : Obligations.LaterEventReplacesTheColour := by
  intro events e x y
  rw [shownAt_append_singleton]
  refine if_congr ⟨?_, ?_⟩ rfl rfl
  · rintro ⟨hgrid, rfl, rfl⟩
    exact ⟨rfl, rfl, onGrid_iff.1 hgrid⟩
  · rintro ⟨rfl, rfl, hgrid⟩
    exact ⟨onGrid_iff.2 hgrid, rfl, rfl⟩

/-- Settles O8. -/
theorem haltedCoreKeepsItsState : Obligations.HaltedCoreKeepsItsState :=
  fun s => ⟨step_of_haltRequest s.raiseHalt_haltRequest, fun hrun => congrArg step (State.callForMore_raiseHalt hrun)⟩

end Sys2Proof.Proofs
end

section
/-! PROOFS. What registers and memory hold after reset and after a load, and which images have a load. -/
namespace Sys2Proof.Machine

/-! ### Reset (70_reset_and_hazards.md R231, R232) -/

@[simp] theorem State.reg_reset (r : Reg) : State.reset.reg r = params.resetRegs := Vector.getElem_replicate _

@[simp] theorem State.byteAt_reset (a : Word) : State.reset.byteAt a = memoryFill := rfl

/-! ### The load of an image (70_reset_and_hazards.md R230 to R237) -/

/-- The state a load of `image` leaves: that of reset, but for the memory, what the clock port answers, and what lies
outside the core and goes on (log 24). -/
def State.loaded (s : State) (image : List Byte) : State :=
  { State.reset with
    mem := Memory.ofImage 0 image
    tref := s.nowMillis
    clock := s.nowMillis
    draws := s.draws + 1
    pixels := s.pixels }

theorem imageFits_iff {image : List Byte} : imageFits image = true ↔ image.length ≤ 65536 := by
  simp [imageFits]

theorem State.load_of_length_le (s : State) {image : List Byte} (h : image.length ≤ 65536) :
    s.load image = some (s.loaded image) :=
  if_pos (imageFits_iff.2 h)

theorem State.load_of_length_gt (s : State) {image : List Byte} (h : image.length > 65536) : s.load image = none :=
  if_neg fun hfits => Nat.not_le.2 h (imageFits_iff.1 hfits)

@[simp] theorem State.reg_loaded (s : State) (image : List Byte) (r : Reg) :
    (s.loaded image).reg r = params.resetRegs :=
  State.reg_reset r

/-- Byte `k` of the image lies at address `k`, and the fill lies beyond it. -/
theorem State.byteAt_loaded (s : State) (image : List Byte) (a : Word) :
    (s.loaded image).byteAt a = image.getD a.toNat memoryFill := by
  have h := Memory.read_ofImage 0 image a.toNat
  rwa [Nat.zero_add] at h

end Sys2Proof.Machine
end

section
/-! PROOFS. The statements about reset and the load of an image, settled. -/
namespace Sys2Proof.Proofs
open Sys2Proof.Machine

/-- Settles O56: what a load leaves is the reset state but for the memory, `tref` and the emitted events. -/
theorem loadPlacesTheImageAndResets : Obligations.LoadPlacesTheImageAndResets := by
  refine fun s image => ⟨s.load_of_length_gt, fun hle => ⟨s.loaded image, s.load_of_length_le hle, fun a => ?_,
    s.reg_loaded image, rfl, rfl, rfl, rfl, rfl, rfl⟩⟩
  rw [State.byteAt_loaded]
  by_cases h : a.toNat < image.length
  · rw [dif_pos h, List.getD_eq_getElem image memoryFill h]
  · rw [dif_neg h, List.getD_eq_default image memoryFill (Nat.not_lt.1 h), memoryFill]

/-- Settles O55, at the defaults the spec decides (92_eei_decisions.md D11, D12, D16). -/
theorem resetLeavesTheDecidedValues : Obligations.ResetLeavesTheDecidedValues :=
  ⟨State.reg_reset, by decide, rfl, rfl, State.byteAt_reset, rfl, rfl, rfl⟩

end Sys2Proof.Proofs
end
